-- ==== Sys2Proof/Word.lean ====
section
/-! DEFINITION. The byte, the one word size of the block (00_scope.md R11). -/

namespace Sys2Proof

/-- An unsigned byte, bit 7 the most significant (R11). -/
abbrev Byte := BitVec 8

/-- The level of a line, `false` for 0 (low) and `true` for 1 (high) (20_memory.md R55). -/
abbrev Level := Bool

end Sys2Proof
end

