-- ==== Sys2Proof/Config.lean ====
section
/-! DEFINITION. The parameters of an instantiation (00_scope.md R6, 30_encoding.md R74) as types, and the free
values. The default values of the parameters are in Machine/Table.lean. -/

namespace Sys2Proof

/-- The fourteen command identifiers, in the order c = 0 to 13 of R74. The type is closed (R82). -/
inductive Cmd where
  | setLowCol | setHighCol | setPage | setStartLine | setContrast | setPolarity | setMux
  | setOffset | setClock | setCharge | setVcom | setDcdc | dispOff | dispOn
  deriving DecidableEq, Repr

/-- KIND of a command (R6): one byte, or an address byte then a value byte. -/
inductive Kind where
  | one | two
  deriving DecidableEq, Repr

/-- One row of the command table (R74). `mask` is PMASK[c] for KIND ONE and VMASK[c] for KIND TWO. -/
structure Entry where
  tag  : Byte
  kind : Kind
  mask : Byte
  deriving DecidableEq, Repr

/-- The command table (R74), one row per command. It is a ROM (10_state.md R32 a). -/
structure Table where
  setLowCol    : Entry
  setHighCol   : Entry
  setPage      : Entry
  setStartLine : Entry
  setContrast  : Entry
  setPolarity  : Entry
  setMux       : Entry
  setOffset    : Entry
  setClock     : Entry
  setCharge    : Entry
  setVcom      : Entry
  setDcdc      : Entry
  dispOff      : Entry
  dispOn       : Entry
  deriving DecidableEq, Repr

/-- The parameters of R6 that an instantiation chooses. None of them changes after the block is built; the model
carries them in State because `exec` and `step` take nothing else (DESIGN CHOICE, log 1, safe). -/
structure Params where
  /-- SCREEN_WIDTH_BITS, OPEN. -/
  screenWidthBits : Nat
  /-- HEIGHT, OPEN. -/
  height          : Nat
  /-- LENW, the width of LENR, FINFO and REQ_LEN (10_state.md R31), OPEN. -/
  lenW            : Nat
  /-- T_RESET_MS. -/
  tResetMs        : Nat
  /-- RES_ASSERT, the level of the reset line that resets the controller (log 15). -/
  resAssert       : Level
  /-- TAG, KIND, PMASK, VMASK. -/
  table           : Table
  /-- DC_LEVEL[COMMAND]. -/
  dcCommandLevel  : Level
  /-- DC_LEVEL[DATA]. -/
  dcDataLevel     : Level
  deriving DecidableEq, Repr

/-- What the `n`-th block reset leaves in CFG[k], for k = 0 to 11: unspecified (70_reset_and_hazards.md R200, R201).
A free value (DESIGN CHOICE of the form, log 4, safe). -/
opaque Config.freeCfg : Nat → Nat → Byte

/-- What the `n`-th block reset leaves in LENR: unspecified (R200, R201). A free value (log 4, safe). -/
opaque Config.freeLenR : Nat → Nat

/-- What the `n`-th block reset leaves in FINFO: unspecified (R200, R201). A free value (log 4, safe). -/
opaque Config.freeFInfo : Nat → Nat

end Sys2Proof
end

