-- ==== Sys2Proof/Machine/Table.lean ====
section
/-! DEFINITION. The command table with its default values (30_encoding.md R74), the quantities derived from the
parameters (00_scope.md R6, 10_state.md R22) and the parameter values after reset. -/

namespace Sys2Proof

/-- The commands in the order of their identifiers (R74). -/
def Cmd.all : List Cmd :=
  [.setLowCol, .setHighCol, .setPage, .setStartLine, .setContrast, .setPolarity, .setMux,
   .setOffset, .setClock, .setCharge, .setVcom, .setDcdc, .dispOff, .dispOn]

/-- The twelve configuration commands, in the order of the source's writes, k = 0 to 11 (42_sequencer.md R147). -/
def Cmd.config : List Cmd :=
  [.setLowCol, .setHighCol, .setPage, .setStartLine, .setContrast, .setPolarity, .setMux,
   .setOffset, .setClock, .setCharge, .setVcom, .setDcdc]

/-- The identifier c of a command (R74). -/
def Cmd.id : Cmd → Nat
  | .setLowCol => 0
  | .setHighCol => 1
  | .setPage => 2
  | .setStartLine => 3
  | .setContrast => 4
  | .setPolarity => 5
  | .setMux => 6
  | .setOffset => 7
  | .setClock => 8
  | .setCharge => 9
  | .setVcom => 10
  | .setDcdc => 11
  | .dispOff => 12
  | .dispOn => 13

/-- The row of the table for a command. -/
def Table.entry (t : Table) : Cmd → Entry
  | .setLowCol => t.setLowCol
  | .setHighCol => t.setHighCol
  | .setPage => t.setPage
  | .setStartLine => t.setStartLine
  | .setContrast => t.setContrast
  | .setPolarity => t.setPolarity
  | .setMux => t.setMux
  | .setOffset => t.setOffset
  | .setClock => t.setClock
  | .setCharge => t.setCharge
  | .setVcom => t.setVcom
  | .setDcdc => t.setDcdc
  | .dispOff => t.dispOff
  | .dispOn => t.dispOn

/-- The default table (R74). The tags 0x00 and 0x10 are the source's; the other tags, the kinds of commands 2 to 11
and the masks of SETPAGE and SETPOLARITY are the spec's general knowledge (PRESUMED, log 2, unsafe). -/
def Table.default : Table where
  setLowCol    := ⟨0x00, .one, 0x0F⟩
  setHighCol   := ⟨0x10, .one, 0x0F⟩
  setPage      := ⟨0xB0, .one, 0x0F⟩
  setStartLine := ⟨0xDC, .two, 0xFF⟩
  setContrast  := ⟨0x81, .two, 0xFF⟩
  setPolarity  := ⟨0xA6, .one, 0x01⟩
  setMux       := ⟨0xA8, .two, 0xFF⟩
  setOffset    := ⟨0xD3, .two, 0xFF⟩
  setClock     := ⟨0xD5, .two, 0xFF⟩
  setCharge    := ⟨0xD9, .two, 0xFF⟩
  setVcom      := ⟨0xDB, .two, 0xFF⟩
  setDcdc      := ⟨0xAD, .two, 0xFF⟩
  dispOff      := ⟨0xAE, .one, 0x00⟩
  dispOn       := ⟨0xAF, .one, 0x00⟩

/-- The bits of a first byte that its command leaves free: PMASK for KIND ONE, none for KIND TWO (R75 b). -/
def Entry.free (e : Entry) : Byte :=
  match e.kind with
  | .one => e.mask
  | .two => 0

/-- The number of bytes of a command (R70). -/
def Entry.length (e : Entry) : Nat :=
  match e.kind with
  | .one => 1
  | .two => 2

/-- WB = ceil(SCREEN_WIDTH_BITS / 8), the bytes of a row (R6). -/
def Params.wb (p : Params) : Nat := (p.screenWidthBits + 7) / 8

/-- FRAME_BYTES = WB * HEIGHT (R6). -/
def Params.frameBytes (p : Params) : Nat := p.wb * p.height

/-- INIT_LEN, the length of INIT's event list (42_sequencer.md R147): the reset pulse, DISPOFF, one event per byte of
the twelve writes, DISPON. -/
def Params.initLen (p : Params) : Nat :=
  4 + 1 + (Cmd.config.map fun c => (p.table.entry c).length).sum + 1

/-- The length of DEINIT's event list (42_sequencer.md R150): five. -/
def Params.deinitLen : Nat := 5

/-- STEPW, the least width that holds max(INIT_LEN - 1, WB + 2) (10_state.md R22). -/
def Params.stepW (p : Params) : Nat := Nat.log2 (max (p.initLen - 1) (p.wb + 2)) + 1

/-- The default of T_RESET_MS (R6). -/
def Config.tResetMs : Nat := 200

/-- The default of RES_ASSERT: low (R6, 42_sequencer.md R145). -/
def Config.resAssert : Level := false

/-- The parameters `State.reset` carries: the defaults of R6, and for the OPEN ones the frame of the source's own
example, 8 x 2 (95_test_vectors.md P2), with a LENW of 16 (DESIGN CHOICE, log 1, unsafe). -/
def Params.default : Params where
  screenWidthBits := 8
  height          := 2
  lenW            := 16
  tResetMs        := Config.tResetMs
  resAssert       := Config.resAssert
  table           := Table.default
  dcCommandLevel  := false
  dcDataLevel     := true

end Sys2Proof
end

