-- ==== Sys2Proof/Syntax.lean ====
section
/-! DEFINITION. What is encoded: the instructions of spec/opcode_table.json, the events of the trace
(00_scope.md R12) and the words they travel in (30_encoding.md R71, R80). -/

namespace Sys2Proof

/-- The Config record: the twelve bytes of CFG, in the order k = 0 to 11 of 10_state.md R20. -/
structure Cfg where
  lowCol    : Byte
  highCol   : Byte
  page      : Byte
  startLine : Byte
  contrast  : Byte
  polarity  : Byte
  mux       : Byte
  offset    : Byte
  clock     : Byte
  charge    : Byte
  vcom      : Byte
  dcdc      : Byte
  deriving DecidableEq, Repr

/-- The mode that accompanies every byte (R12): the two values of the mode-select line's register DC. -/
inductive Mode where
  | command | data
  deriving DecidableEq, Repr

/-- An event of the trace, exactly these three shapes (R12). -/
inductive Event where
  /-- `Res(l)`: the reset line is driven to level `l`. -/
  | res (l : Level)
  /-- `Dly(ms)`: a blocking delay of `ms` milliseconds. -/
  | dly (ms : Nat)
  /-- `Tx(m, b)`: the mode-select line shows `m` and byte `b` is handed to the transport. -/
  | tx (m : Mode) (b : Byte)
  deriving DecidableEq, Repr

/-- One constructor per row of spec/opcode_table.json: the fourteen commands SEQ emits (40_cmdenc.md R104 to R117),
the data byte (42_sequencer.md R154) and the four host requests (30_encoding.md R80). -/
inductive Instr where
  | setLowCol (p : Byte)
  | setHighCol (p : Byte)
  | setPage (p : Byte)
  | setStartLine (p : Byte)
  | setContrast (p : Byte)
  | setPolarity (p : Byte)
  | setMux (p : Byte)
  | setOffset (p : Byte)
  | setClock (p : Byte)
  | setCharge (p : Byte)
  | setVcom (p : Byte)
  | setDcdc (p : Byte)
  | dispOff
  | dispOn
  | data (d : Byte)
  | nop
  | init (cfg : Cfg)
  | deinit
  | display (len : Nat)
  deriving DecidableEq, Repr

/-- The command and the parameter of an emitted command. DISPOFF and DISPON ignore their parameter, which is 0
(40_cmdenc.md R116, R117). -/
def Instr.command? : Instr → Option (Cmd × Byte)
  | .setLowCol p => some (.setLowCol, p)
  | .setHighCol p => some (.setHighCol, p)
  | .setPage p => some (.setPage, p)
  | .setStartLine p => some (.setStartLine, p)
  | .setContrast p => some (.setContrast, p)
  | .setPolarity p => some (.setPolarity, p)
  | .setMux p => some (.setMux, p)
  | .setOffset p => some (.setOffset, p)
  | .setClock p => some (.setClock, p)
  | .setCharge p => some (.setCharge, p)
  | .setVcom p => some (.setVcom, p)
  | .setDcdc p => some (.setDcdc, p)
  | .dispOff => some (.dispOff, 0)
  | .dispOn => some (.dispOn, 0)
  | .data _ => none
  | .nop => none
  | .init _ => none
  | .deinit => none
  | .display _ => none

/-- The request word (30_encoding.md R80): REQ_OP[1:0], REQ_CFG[95:0] and REQ_LEN. -/
structure ReqWord where
  op  : BitVec 2
  cfg : BitVec 96
  len : Nat
  deriving DecidableEq, Repr

/-- An instruction's words with the channel they travel on: bytes in COMMAND mode, a byte in DATA mode, or a
request word. The channel accompanies the bits and is no part of them (30_encoding.md R77, R80). -/
inductive Packet where
  | command (bytes : List Byte)
  | data (b : Byte)
  | request (w : ReqWord)
  deriving DecidableEq, Repr

end Sys2Proof
end

