-- ==== Sys2Proof/Machine/CmdEnc.lean ====
section
/-! DEFINITION. CMDENC, the command-byte table lookup (40_cmdenc.md R100 to R102). Pure functions of the table, the
command and the parameter (R103 b, f). -/

namespace Sys2Proof

/-- `Enc1(c, p) = TAG[c] | (p & PMASK[c])` (R100). -/
def enc1 (t : Table) (c : Cmd) (p : Byte) : Byte :=
  (t.entry c).tag ||| (p &&& (t.entry c).mask)

/-- `Enc2(c, p) = (TAG[c], p & VMASK[c])`: the address byte and the value byte (R101). -/
def enc2 (t : Table) (c : Cmd) (p : Byte) : Byte × Byte :=
  ((t.entry c).tag, p &&& (t.entry c).mask)

/-- The one or two bytes of a command, by its KIND (R102). -/
def encBytes (t : Table) (c : Cmd) (p : Byte) : List Byte :=
  match (t.entry c).kind with
  | .one => [enc1 t c p]
  | .two => [(enc2 t c p).1, (enc2 t c p).2]

/-- `EncSeq(c, p)`: every byte in COMMAND mode (R102). -/
def encSeq (t : Table) (c : Cmd) (p : Byte) : List Event :=
  (encBytes t c p).map (.tx .command)

/-- CFG with every register 0x00, its value in `State.reset` (DESIGN CHOICE, log 3, unsafe). -/
def Cfg.zero : Cfg := ⟨0, 0, 0, 0, 0, 0, 0, 0, 0, 0, 0, 0⟩

/-- The byte of a configuration that command c carries (10_state.md R20). DISPOFF and DISPON carry none; their
parameter is 0 (R147). -/
def Cfg.param (cfg : Cfg) : Cmd → Byte
  | .setLowCol => cfg.lowCol
  | .setHighCol => cfg.highCol
  | .setPage => cfg.page
  | .setStartLine => cfg.startLine
  | .setContrast => cfg.contrast
  | .setPolarity => cfg.polarity
  | .setMux => cfg.mux
  | .setOffset => cfg.offset
  | .setClock => cfg.clock
  | .setCharge => cfg.charge
  | .setVcom => cfg.vcom
  | .setDcdc => cfg.dcdc
  | .dispOff => 0
  | .dispOn => 0

end Sys2Proof
end

