-- ==== Sys2Proof/WellFormed.lean ====
section
/-! DEFINITION. Well-formedness of parameters, request words and instructions. -/

namespace Sys2Proof

/-- No first byte belongs to both rows (30_encoding.md R75 b): the tags differ in a bit that both rows fix. -/
def Entry.disjoint (e f : Entry) : Bool :=
  ((e.tag ^^^ f.tag) &&& ~~~(e.free ||| f.free)) != 0

/-- The constraints of R75 on a table. (a) For KIND ONE the tag and the parameter region do not overlap. (b) The
first-byte sets are pairwise disjoint. Besides, the five commands that the sequencer sends through Enc1
(42_sequencer.md R147, R153) are of KIND ONE (DEDUCED, log 17, safe). -/
def Table.wf (t : Table) : Bool :=
  (Cmd.all.all fun c => ((t.entry c).tag &&& (t.entry c).free) == 0) &&
  (Cmd.all.all fun c => Cmd.all.all fun d => c == d || (t.entry c).disjoint (t.entry d)) &&
  ([Cmd.setLowCol, .setHighCol, .setPage, .dispOff, .dispOn].all fun c => (t.entry c).kind == .one)

/-- The ranges of R6, and LENW at least the width of FRAME_BYTES (10_state.md R31). -/
def Params.wf (p : Params) : Bool :=
  decide (1 ≤ p.screenWidthBits) && decide (1 ≤ p.height) && decide (p.height ≤ 256) &&
  decide (p.frameBytes < 2 ^ p.lenW) && p.table.wf

/-- REQ_LEN fits the LENW wires of its field (30_encoding.md R80) (log 22). -/
def ReqWord.wf (p : Params) (w : ReqWord) : Bool := decide (w.len < 2 ^ p.lenW)

/-- The parameter of a command lies inside its mask (40_cmdenc.md R103 c). -/
def Table.carries (t : Table) (c : Cmd) (v : Byte) : Bool := (v &&& ~~~(t.entry c).mask) == 0

/-- The operands the encoding can carry: a command's parameter lies inside its mask, and a DISPLAY's length fits LENW
bits. Every instruction runs whether or not it is well-formed: the encoder masks (R103 e). -/
def Instr.wf (p : Params) : Instr → Bool
  | .setLowCol v => p.table.carries .setLowCol v
  | .setHighCol v => p.table.carries .setHighCol v
  | .setPage v => p.table.carries .setPage v
  | .setStartLine v => p.table.carries .setStartLine v
  | .setContrast v => p.table.carries .setContrast v
  | .setPolarity v => p.table.carries .setPolarity v
  | .setMux v => p.table.carries .setMux v
  | .setOffset v => p.table.carries .setOffset v
  | .setClock v => p.table.carries .setClock v
  | .setCharge v => p.table.carries .setCharge v
  | .setVcom v => p.table.carries .setVcom v
  | .setDcdc v => p.table.carries .setDcdc v
  | .dispOff => true
  | .dispOn => true
  | .data _ => true
  | .nop => true
  | .init _ => true
  | .deinit => true
  | .display len => decide (len < 2 ^ p.lenW)

end Sys2Proof
end

