-- ==== Sys2Proof/Decode.lean ====
section
/-! DEFINITION. The decoders: of COMMAND-mode bytes (30_encoding.md R77, R84), of the data byte (R73), of the request
word (R80) and of a whole trace (R84); then the encoder, and the reading of an opcode-table word. -/

namespace Sys2Proof

/-- Why bits stand for no instruction. -/
inductive DecodeReject where
  /-- There is no byte. -/
  | noByte
  /-- A COMMAND-mode first byte outside the fourteen first-byte sets: `Unknown(b)` (R84, R85). -/
  | unknownFirstByte (b : Byte)
  /-- The address byte of a two-byte command with no value byte after it (R77). -/
  | missingValueByte (c : Cmd)
  /-- Bytes after the end of the one command of a packet. -/
  | bytesLeftOver (n : Nat)
  deriving DecidableEq, Repr

/-- The instruction of a command with a parameter; DISPOFF and DISPON have no operand (40_cmdenc.md R116, R117). -/
def Cmd.toInstr (p : Byte) : Cmd → Instr
  | .setLowCol => .setLowCol p
  | .setHighCol => .setHighCol p
  | .setPage => .setPage p
  | .setStartLine => .setStartLine p
  | .setContrast => .setContrast p
  | .setPolarity => .setPolarity p
  | .setMux => .setMux p
  | .setOffset => .setOffset p
  | .setClock => .setClock p
  | .setCharge => .setCharge p
  | .setVcom => .setVcom p
  | .setDcdc => .setDcdc p
  | .dispOff => .dispOff
  | .dispOn => .dispOn

/-- `b` is in the first-byte set of the row (R75 b). -/
def Entry.isFirstByte (e : Entry) (b : Byte) : Bool := (b &&& ~~~e.free) == e.tag

/-- The command whose first-byte set holds `b`; it is unique where the table meets R75 (b). -/
def commandOf (t : Table) (b : Byte) : Option Cmd :=
  Cmd.all.find? fun c => (t.entry c).isFirstByte b

/-- One command from the front of a list of COMMAND-mode bytes, with the bytes after it. The length is told by the
first byte alone, and a value byte is not looked up, whatever it is (R77, R84). -/
def decodeCommand (t : Table) : List Byte → Except DecodeReject (Instr × List Byte)
  | [] => .error .noByte
  | b :: rest =>
    match commandOf t b with
    | none => .error (.unknownFirstByte b)
    | some c =>
      match (t.entry c).kind with
      | .one => .ok (c.toInstr (b &&& (t.entry c).mask), rest)
      | .two =>
        match rest with
        | [] => .error (.missingValueByte c)
        | v :: rest' => .ok (c.toInstr v, rest')

/-- Byte k of REQ_CFG: `cfg[k] = REQ_CFG[8k+7 : 8k]` (R80). -/
def cfgByte (w : BitVec 96) (k : Nat) : Byte := w.extractLsb' (8 * k) 8

/-- The twelve bytes of REQ_CFG (R80). -/
def unpackCfg (w : BitVec 96) : Cfg where
  lowCol    := cfgByte w 0
  highCol   := cfgByte w 1
  page      := cfgByte w 2
  startLine := cfgByte w 3
  contrast  := cfgByte w 4
  polarity  := cfgByte w 5
  mux       := cfgByte w 6
  offset    := cfgByte w 7
  clock     := cfgByte w 8
  charge    := cfgByte w 9
  vcom      := cfgByte w 10
  dcdc      := cfgByte w 11

/-- The request a word asks for. All four codes are defined; fields an operation does not use are ignored (R80). -/
def decodeRequest (w : ReqWord) : Instr :=
  match w.op.toNat with
  | 0 => .nop
  | 1 => .init (unpackCfg w.cfg)
  | 2 => .deinit
  | _ => .display w.len

/-- The decoder: total on every packet, and it rejects by name. -/
def decode (t : Table) : Packet → Except DecodeReject Instr
  | .command bytes =>
    match decodeCommand t bytes with
    | .error e => .error e
    | .ok (i, []) => .ok i
    | .ok (_, b :: rest) => .error (.bytesLeftOver (b :: rest).length)
  | .data b => .ok (.data b)
  | .request w => .ok (decodeRequest w)

/-- What the trace decoder reads (R84). -/
inductive Decoded where
  /-- A `Res` event. -/
  | line (l : Level)
  /-- A `Dly` event. -/
  | delay (ms : Nat)
  /-- A command, or a data byte. -/
  | instr (i : Instr)
  /-- `Unknown(b)`, which the block never produces (R85). -/
  | unknown (b : Byte)
  /-- A DATA byte between an address byte and its value byte, which the block never sends (R84). -/
  | strayData (b : Byte)
  /-- A trace that ends after an address byte, as when the block is stopped there (70_reset_and_hazards.md R212). -/
  | unfinished (c : Cmd)
  deriving DecidableEq, Repr

/-- The trace decoder of R84. `pending` is its bit `expect_value`, with the command that set it. -/
def decodeTraceFrom (t : Table) : Option Cmd → List Event → List Decoded
  | none, [] => []
  | some c, [] => [.unfinished c]
  | pending, .res l :: es => .line l :: decodeTraceFrom t pending es
  | pending, .dly ms :: es => .delay ms :: decodeTraceFrom t pending es
  | none, .tx .data b :: es => .instr (.data b) :: decodeTraceFrom t none es
  | some c, .tx .data b :: es => .strayData b :: decodeTraceFrom t (some c) es
  | some c, .tx .command b :: es => .instr (c.toInstr b) :: decodeTraceFrom t none es
  | none, .tx .command b :: es =>
    match commandOf t b with
    | none => .unknown b :: decodeTraceFrom t none es
    | some c =>
      match (t.entry c).kind with
      | .one => .instr (c.toInstr (b &&& (t.entry c).mask)) :: decodeTraceFrom t none es
      | .two => decodeTraceFrom t (some c) es

/-- The trace decoder, with `expect_value` initially false (R84). -/
def decodeTrace (t : Table) (es : List Event) : List Decoded := decodeTraceFrom t none es

/-! ### The encoder -/

/-- REQ_CFG from the twelve bytes: byte k in bits 8k+7 to 8k (R80). -/
def packCfg (c : Cfg) : BitVec 96 :=
  c.dcdc ++ c.vcom ++ c.charge ++ c.clock ++ c.offset ++ c.mux ++ c.polarity ++ c.contrast ++
  c.startLine ++ c.page ++ c.highCol ++ c.lowCol

/-- The words of an instruction (R71, R73, R80). Operand fields that a request does not use are 0. -/
def encode (t : Table) : Instr → Packet
  | .setLowCol p => .command (encBytes t .setLowCol p)
  | .setHighCol p => .command (encBytes t .setHighCol p)
  | .setPage p => .command (encBytes t .setPage p)
  | .setStartLine p => .command (encBytes t .setStartLine p)
  | .setContrast p => .command (encBytes t .setContrast p)
  | .setPolarity p => .command (encBytes t .setPolarity p)
  | .setMux p => .command (encBytes t .setMux p)
  | .setOffset p => .command (encBytes t .setOffset p)
  | .setClock p => .command (encBytes t .setClock p)
  | .setCharge p => .command (encBytes t .setCharge p)
  | .setVcom p => .command (encBytes t .setVcom p)
  | .setDcdc p => .command (encBytes t .setDcdc p)
  | .dispOff => .command (encBytes t .dispOff 0)
  | .dispOn => .command (encBytes t .dispOn 0)
  | .data d => .data d
  | .nop => .request ⟨0, 0, 0⟩
  | .init cfg => .request ⟨1, packCfg cfg, 0⟩
  | .deinit => .request ⟨2, 0, 0⟩
  | .display len => .request ⟨3, 0, len⟩

/-! ### A word of the opcode table -/

/-- The packet a table word of `nbits` bits stands for, with the channel that the bits do not say: the row with the most
fixed bits that the word matches. Two bytes are an address byte, in bits 15 to 8, and its value byte, as
the table's `match` and `byte_order` number them. One byte is a request code where bits 7 to 2 are 0 (the two bits of
REQ_OP padded to a byte), else a command where a row of one byte matches, else a data byte
(DESIGN CHOICE, log 12, safe). -/
def packetOfTableWord (nbits w : Nat) : Option Packet :=
  if 2 ^ nbits ≤ w then none
  else if nbits ≤ 2 then some (.request ⟨BitVec.ofNat 2 w, 0, 0⟩)
  else if nbits = 8 then
    if w < 4 then some (.request ⟨BitVec.ofNat 2 w, 0, 0⟩)
    else
      match decode Table.default (.command [BitVec.ofNat 8 w]) with
      | .ok _ => some (.command [BitVec.ofNat 8 w])
      | .error _ => some (.data (BitVec.ofNat 8 w))
  else if nbits = 16 then some (.command [BitVec.ofNat 8 (w / 256), BitVec.ofNat 8 w])
  else none

/-- The instruction the decoder reads from a word of spec/opcode_table.json (log 12). -/
def decodeTableWord (nbits w : Nat) : Option Instr :=
  match packetOfTableWord nbits w with
  | none => none
  | some p =>
    match decode Table.default p with
    | .ok i => some i
    | .error _ => none

end Sys2Proof
end

