-- ==== Sys2Proof/Machine/State.lean ====
section
/-! DEFINITION. The state of the block (10_state.md), of the things outside it that a step touches, and its value after
block reset (70_reset_and_hazards.md R200). -/

namespace Sys2Proof.Machine

/-- OP, which operation is running (10_state.md R22). -/
inductive Op where
  | idle | init | deinit | display
  deriving DecidableEq, Repr

/-- LIFE, the lifecycle register (10_state.md R29). Codes 5, 6 and 7 are never written and have no constructor. -/
inductive Life where
  | uninit | resetting | config | on | deinit
  deriving DecidableEq, Repr

/-- FCODE (60_exceptions.md R180). Codes 2 and 3 are never written and have no constructor. -/
inductive FCode where
  | none | fbOutOfBounds
  deriving DecidableEq, Repr

/-- The frame buffer: the bytes that differ from what an unlisted offset reads as, in strictly rising offset
(20_memory.md R50, R51). -/
abbrev Memory := List Host.Cell

/-- What the frame buffer holds where nothing has been stored (DESIGN CHOICE, log 8, unsafe). -/
def Memory.unlisted : Byte := 0x00

/-- The canonical form: offsets strictly rising, no byte equal to what an unlisted offset reads as. -/
def Memory.wf : Memory → Bool
  | [] => true
  | [(_, b)] => b != Memory.unlisted
  | (a, b) :: (a', b') :: m => b != Memory.unlisted && decide (a < a') && Memory.wf ((a', b') :: m)

/-- Whether the parties that a step waits for answer (20_memory.md R65): inputs of the block. -/
structure Env where
  /-- The transport takes the byte handed to it. -/
  transport : Bool
  /-- The delay that is asked for ends. -/
  timer     : Bool
  /-- The frame-buffer port answers a read inside the buffer. -/
  fbPort    : Bool
  deriving DecidableEq, Repr

/-- The environment that does its duties (R65). -/
def Env.answering : Env := ⟨true, true, true⟩

/-- Everything the spec gives the machine. The first twelve fields are the block's own state (10_state.md section 1);
then the block's surroundings; then the model's own fields. -/
structure State where
  /-- CFG[0..11] (10_state.md R20). -/
  cfg         : Cfg
  /-- OP (R22). -/
  op          : Op
  /-- ROW, 8 bits (R22). -/
  row         : BitVec 8
  /-- STEP, a counter of STEPW bits (R22) (log 16). -/
  stepNo      : Nat
  /-- LENR, LENW bits (R31) (log 16). -/
  lenR        : Nat
  /-- LIFE (R29). -/
  life        : Life
  /-- INITIALIZED (R24). -/
  initialized : Bool
  /-- DC, the register that drives the mode-select line (R25). -/
  dc          : Mode
  /-- RES, the register that drives the controller's reset line (R26). -/
  res         : Level
  /-- FAULT (R27). -/
  fault       : Bool
  /-- FCODE (R27). -/
  fCode       : FCode
  /-- FINFO, LENW bits (R27) (log 16). -/
  fInfo       : Nat
  /-- The frame buffer, which belongs to the host (20_memory.md R51). -/
  fb          : Memory
  /-- The request words the host has still to make; the head is the one on the request channel (42_sequencer.md R140)
  (DESIGN CHOICE, log 7, safe). -/
  host        : List ReqWord
  /-- The block's reset input is asserted (70_reset_and_hazards.md R200) (log 5). -/
  rstIn       : Bool
  /-- What the environment does when the next event waits for it (20_memory.md R65) (log 11). -/
  env         : Env
  /-- The data byte that has been handed to the transport and that the transport has not taken yet: it stands on the
  transport's channel while its event is in progress, so its buffer byte has been read already (20_memory.md R61,
  42_sequencer.md R144 i, ii) (log 23). -/
  handed      : Option Byte
  /-- The events since block reset, oldest first (00_scope.md R12). -/
  trace       : List Event
  /-- The model's own: the parameters of the instantiation, which no step writes (log 1). -/
  par         : Params
  /-- The model's own: how many block resets steps have taken, which numbers their free values (log 4). -/
  freeIx      : Nat
  deriving DecidableEq, Repr

/-- Why the machine stops. -/
inductive Fault where
  /-- The position (OP, ROW, STEP) names no event: STEP is past the end of the operation's event list, or ROW is
  not below HEIGHT. `step` raises it. No run reaches it (10_state.md R35), and the spec gives such a position no
  meaning (DESIGN CHOICE, log 14). Safe: the machine stops. -/
  | noEventAtPosition
  deriving DecidableEq, Repr

/-- Why an instruction has no meaning. -/
inductive Refusal where
  /-- The instruction is not modelled yet; only an arm of `exec` raises it, and none does. Safe: the machine stops. -/
  | notModelled (mnemonic : String)
  deriving DecidableEq, Repr

/-- The outcome of a step. -/
abbrev Result := Host.Outcome State Fault Refusal

/-- The state after block reset (R200). CFG, LENR and FINFO are unspecified there and are 0 here
(DESIGN CHOICE, log 3, unsafe); the surroundings and the model's own fields are log 1, 4, 5, 7, 8, 11 and 23. -/
def State.reset : State where
  cfg         := Cfg.zero
  op          := .idle
  row         := 0
  stepNo      := 0
  lenR        := 0
  life        := .uninit
  initialized := false
  dc          := .command
  res         := true
  fault       := false
  fCode       := .none
  fInfo       := 0
  fb          := []
  host        := []
  rstIn       := false
  env         := Env.answering
  handed      := none
  trace       := []
  par         := Params.default
  freeIx      := 0

end Sys2Proof.Machine
end

