-- ==== Sys2Proof/Machine/Flags.lean ====
section
/-! DEFINITION. The flags and status of the block (10_state.md R24 to R30): their named updates, their codes, the
status word and the two lines. There are no arithmetic condition codes (R28). -/

namespace Sys2Proof.Machine

/-- Write INITIALIZED (R24). -/
def State.setInitialized (b : Bool) (s : State) : State := { s with initialized := b }

/-- Write DC (R25). -/
def State.setDc (m : Mode) (s : State) : State := { s with dc := m }

/-- Write RES (R26). -/
def State.setRes (l : Level) (s : State) : State := { s with res := l }

/-- Write LIFE (R29). -/
def State.setLife (l : Life) (s : State) : State := { s with life := l }

/-- Write FAULT, FCODE and FINFO (60_exceptions.md R182). -/
def State.setFault (c : FCode) (info : Nat) (s : State) : State :=
  { s with fault := true, fCode := c, fInfo := info }

/-- The two bits of OP, which are the request codes (R22). -/
def Op.code : Op → BitVec 2
  | .idle => 0
  | .init => 1
  | .deinit => 2
  | .display => 3

/-- The three bits of LIFE (R29). -/
def Life.code : Life → BitVec 3
  | .uninit => 0
  | .resetting => 1
  | .config => 2
  | .on => 3
  | .deinit => 4

/-- The two bits of FCODE (60_exceptions.md R180). -/
def FCode.code : FCode → BitVec 2
  | .none => 0
  | .fbOutOfBounds => 1

/-- BUSY, which is not stored (10_state.md section 1). -/
def State.busy (s : State) : Bool := s.op != .idle

/-- The status word (R30): FCODE in bits 7:6, FAULT in 5, LIFE in 4:2, INITIALIZED in 1, BUSY in 0. Reading it has no
side effect. -/
def State.statusWord (s : State) : BitVec 8 :=
  FCode.code s.fCode ++ BitVec.ofBool s.fault ++ Life.code s.life ++ BitVec.ofBool s.initialized ++
  BitVec.ofBool s.busy

/-- The level of the mode-select line, DC_LEVEL[DC] (R25). -/
def State.dcLine (s : State) : Level :=
  match s.dc with
  | .command => s.par.dcCommandLevel
  | .data => s.par.dcDataLevel

/-- The level of the controller's reset line (R26). -/
def State.resLine (s : State) : Level := s.res

/-- SEQ has a step: OP is not IDLE and FAULT is 0 (42_sequencer.md R144). -/
def State.enabled (s : State) : Bool := s.op != .idle && !s.fault

/-- The request channel is ready: OP is IDLE and FAULT is 0 (42_sequencer.md R140). -/
def State.ready (s : State) : Bool := s.op == .idle && !s.fault

end Sys2Proof.Machine
end

