-- ==== Sys2Proof/Machine/BitRev.lean ====
section
/-! DEFINITION. BITREV, the per-byte bit reflection (41_bitrev.md R130). -/

namespace Sys2Proof

/-- `rev8(b)`: bit k of the result is bit 7 - k of `b` (R130). -/
def rev8 (b : Byte) : Byte :=
  BitVec.ofBool (b.getLsbD 0) ++ BitVec.ofBool (b.getLsbD 1) ++ BitVec.ofBool (b.getLsbD 2) ++
  BitVec.ofBool (b.getLsbD 3) ++ BitVec.ofBool (b.getLsbD 4) ++ BitVec.ofBool (b.getLsbD 5) ++
  BitVec.ofBool (b.getLsbD 6) ++ BitVec.ofBool (b.getLsbD 7)

end Sys2Proof
end

