-- ==== Sys2Proof/Machine/EventLists.lean ====
section
/-! DEFINITION. The event lists of the operations (42_sequencer.md R145, R147, R150, R155), and the plans that name,
for each value of STEP, the event SEQ performs there. -/

namespace Sys2Proof.Machine

/-- The reset pulse (R145): the line at RES_ASSERT, which is low by default, delay, the other level, delay
(DEDUCED for another RES_ASSERT, log 15). -/
def resetPulse (p : Params) : List Event :=
  [.res p.resAssert, .dly p.tResetMs, .res (!p.resAssert), .dly p.tResetMs]

/-- `InitList(cfg)` (R147). -/
def initList (p : Params) (cfg : Cfg) : List Event :=
  resetPulse p ++ [.tx .command (enc1 p.table .dispOff 0)] ++
  Cmd.config.flatMap (fun c => encSeq p.table c (cfg.param c)) ++ [.tx .command (enc1 p.table .dispOn 0)]

/-- `DeinitList` (R150). -/
def deinitList (p : Params) : List Event :=
  resetPulse p ++ [.tx .command (enc1 p.table .dispOff 0)]

/-- The events of row `j` of a frame (30_encoding.md R78, R155). -/
def rowList (p : Params) (fb : Nat → Byte) (j : Nat) : List Event :=
  [.tx .command (enc1 p.table .setPage 0), .tx .command (enc1 p.table .setLowCol (BitVec.ofNat 8 j &&& 0x0F)),
   .tx .command (enc1 p.table .setHighCol (BitVec.ofNat 8 j >>> 4))] ++
  (List.range p.wb).map fun i => .tx .data (rev8 (fb (i + j * p.wb)))

/-- `DisplayList(FB)` (R155), for a buffer given as the byte at each offset. -/
def displayList (p : Params) (fb : Nat → Byte) : List Event :=
  (List.range p.height).flatMap (rowList p fb)

/-- What SEQ performs at one value of STEP in INIT or DEINIT: an event of the reset pulse, or a byte of a command,
which is the value byte of a two-byte command or else its first byte. -/
inductive Slot where
  | pulse (e : Event)
  | cmd (c : Cmd) (valueByte : Bool)
  deriving DecidableEq, Repr

/-- The steps of one command, one per byte (40_cmdenc.md R107). -/
def cmdSlots (t : Table) (c : Cmd) : List Slot :=
  match (t.entry c).kind with
  | .one => [.cmd c false]
  | .two => [.cmd c false, .cmd c true]

/-- INIT, step by step (R147, R148). -/
def initPlan (p : Params) : List Slot :=
  (resetPulse p).map .pulse ++ [.cmd .dispOff false] ++ Cmd.config.flatMap (cmdSlots p.table) ++ [.cmd .dispOn false]

/-- DEINIT, step by step (R150, R151). -/
def deinitPlan (p : Params) : List Slot :=
  (resetPulse p).map .pulse ++ [.cmd .dispOff false]

end Sys2Proof.Machine
end

