-- ==== Sys2Proof/Machine/Operands.lean ====
section
/-! DEFINITION. Operands: the frame-buffer offset, the row's nibbles, and the byte of a command that the position
names. -/

namespace Sys2Proof.Machine

/-- The slot the position names in INIT and DEINIT (42_sequencer.md R148, R151). -/
def State.slot? (s : State) : Option Slot :=
  match s.op with
  | .init => (initPlan s.par)[s.stepNo]?
  | .deinit => (deinitPlan s.par)[s.stepNo]?
  | .idle => none
  | .display => none

/-- The position names the value byte of a two-byte command, the second of its two steps (40_cmdenc.md R107)
(DEDUCED, log 9, safe). -/
def State.atValueByte (s : State) : Bool :=
  match s.slot? with
  | some (.cmd _ v) => v
  | some (.pulse _) => false
  | none => false

/-- The byte of command `c` with parameter `p` that the step sends: the one byte of a KIND ONE command (R100); for
KIND TWO the value byte at the second step and the address byte otherwise (R101). -/
def State.commandByte (s : State) (c : Cmd) (p : Byte) : Byte :=
  match (s.par.table.entry c).kind with
  | .one => enc1 s.par.table c p
  | .two => if s.atValueByte then (enc2 s.par.table c p).2 else (enc2 s.par.table c p).1

/-- The low nibble of the row index, `j & 0x0F`, for SETLOWCOL (42_sequencer.md R153). -/
def State.rowLow (s : State) : Byte := s.row &&& 0x0F

/-- The high nibble of the row index, `j >> 4`, for SETHIGHCOL (R153). -/
def State.rowHigh (s : State) : Byte := s.row >>> 4

/-- The offset `i + j * WB` of the data slot the position names, with `i = STEP - 3` (20_memory.md R53,
42_sequencer.md R154). -/
def State.dataOffset (s : State) : Nat := (s.stepNo - 3) + s.row.toNat * s.par.wb

/-- The byte of the data slot the position names, as it is sent: the one that is at the transport already, or else the
reversal of `read`, the byte MemRead gives (42_sequencer.md R154, R144 i). One read per slot (20_memory.md R51, R61;
log 23). -/
def State.slotByte (s : State) (read : Byte) : Byte := s.handed.getD (rev8 read)

/-- The position names a data slot of DISPLAY (R154). -/
def State.atDataSlot (s : State) : Bool := s.op == .display && decide (3 ≤ s.stepNo)

end Sys2Proof.Machine
end

