-- ==== Sys2Proof/Machine/Ops.lean ====
section
/-! DEFINITION. The named operations: over the frame buffer, over the registers, performing an event and advancing the
position, raising the fault, accepting a request, and the block reset. -/

namespace Sys2Proof.Machine

/-! ### The frame buffer -/

/-- The byte at an offset (20_memory.md R52). The read changes nothing. -/
def Memory.read : Memory → Nat → Byte
  | [], _ => Memory.unlisted
  | (a, b) :: m, off => if off = a then b else Memory.read m off

/-- Take an offset out of the list. -/
def Memory.erase : Memory → Nat → Memory
  | [], _ => []
  | (a, b) :: m, off => if off = a then m else (a, b) :: Memory.erase m off

/-- Put a byte into the list at its place, over the one that stands there. -/
def Memory.insert : Memory → Nat → Byte → Memory
  | [], off, v => [(off, v)]
  | (a, b) :: m, off, v =>
    if off < a then (off, v) :: (a, b) :: m
    else if off = a then (off, v) :: m
    else (a, b) :: Memory.insert m off v

/-- A store by the host (20_memory.md R63). The block itself never writes memory (00_scope.md R13). -/
def Memory.write (m : Memory) (off : Nat) (v : Byte) : Memory :=
  if v = Memory.unlisted then Memory.erase m off else Memory.insert m off v

/-! ### Registers -/

/-- `pc <- (op, row, step)` (00_scope.md R13). -/
def State.setPc (o : Op) (r : BitVec 8) (n : Nat) (s : State) : State := { s with op := o, row := r, stepNo := n }

/-- Load the twelve registers of CFG together (10_state.md R21). -/
def State.latchCfg (c : Cfg) (s : State) : State := { s with cfg := c }

/-- Load LENR (10_state.md R31). -/
def State.latchLen (n : Nat) (s : State) : State := { s with lenR := n }

/-- Append an event to the trace (00_scope.md R12). -/
def State.record (e : Event) (s : State) : State := { s with trace := s.trace ++ [e] }

/-- Take the request on the channel: the host's next one stands there then (42_sequencer.md R140). -/
def State.takeRequest (s : State) : State := { s with host := s.host.tail }

/-! ### A step of SEQ -/

/-- Perform an event and append it to the trace (42_sequencer.md R144 ii, iii). -/
def State.perform (e : Event) (s : State) : State :=
  match e with
  | .res l => (s.setRes l).record (.res l)
  | .dly ms => s.record (.dly ms)
  | .tx m b => (s.setDc m).record (.tx m b)

/-- The operation is over: `pc <- (IDLE, 0, 0)` (42_sequencer.md R156). -/
def State.finish (s : State) : State := s.setPc .idle 0 0

/-- Advance after a step of INIT at STEP = n (42_sequencer.md R148, R149). -/
def State.advanceInit (s : State) : State :=
  if s.stepNo + 1 < s.par.initLen then
    if s.stepNo = 3 then (s.setLife .config).setPc .init s.row (s.stepNo + 1)
    else s.setPc .init s.row (s.stepNo + 1)
  else ((s.setInitialized true).setLife .on).finish

/-- Advance after a step of DEINIT at STEP = n (42_sequencer.md R151). -/
def State.advanceDeinit (s : State) : State :=
  if s.stepNo + 1 < Params.deinitLen then s.setPc .deinit s.row (s.stepNo + 1)
  else ((s.setInitialized false).setLife .deinit).finish

/-- Advance after a step of DISPLAY (42_sequencer.md R153, R155). -/
def State.advanceDisplay (s : State) : State :=
  if s.stepNo < s.par.wb + 2 then s.setPc .display s.row (s.stepNo + 1)
  else if s.row.toNat + 1 < s.par.height then s.setPc .display (s.row + 1) 0
  else s.finish

/-- Advance the position and write whatever else the step rule says (42_sequencer.md R144 iv). -/
def State.advance (s : State) : State :=
  match s.op with
  | .idle => s
  | .init => s.advanceInit
  | .deinit => s.advanceDeinit
  | .display => s.advanceDisplay

/-- Set the byte that is handed to the transport and not taken yet (log 23). -/
def State.setHanded (h : Option Byte) (s : State) : State := { s with handed := h }

/-- One step of SEQ with event `e`: perform it, which leaves nothing at the transport, then advance. The advance reads no
register that performing an event writes, so all reads are of the values before the step (00_scope.md R13). -/
def State.seqStep (e : Event) (s : State) : State := ((s.perform e).setHanded none).advance

/-- The buffer byte of a data event is there: it has been read and handed over, or the port answers the read
(20_memory.md R61, R65). -/
def State.byteAtHand (s : State) : Bool := s.handed.isSome || s.env.fbPort

/-- The environment does what event `e` waits for (42_sequencer.md R144 ii, 20_memory.md R65). A line write waits for
nothing (R55); a DATA byte is first read from the frame-buffer port, once (R61). -/
def State.answered (e : Event) (s : State) : Bool :=
  match e with
  | .res _ => true
  | .dly _ => s.env.timer
  | .tx .command _ => s.env.transport
  | .tx .data _ => s.byteAtHand && s.env.transport

/-- The block in the middle of event `e`, which does not end (R65): the event is not in the trace and the position still
names it. While the transport has not taken a byte the mode-select line already shows the byte's mode (R55, R144 ii)
(DEDUCED, log 11), and a data byte, which was read before it was handed over (R61, R144 i), stays handed over as it is
(log 23); before the frame-buffer port has answered nothing has happened. -/
def State.await (e : Event) (s : State) : State :=
  match e with
  | .res _ => s
  | .dly _ => s
  | .tx .command _ => s.setDc .command
  | .tx .data b => if s.byteAtHand then (s.setDc .data).setHanded (some b) else s

/-- SEQ's step, where it has one: it performs `e`, or waits in it while the environment does not answer (R65). Where it
has none (OP = IDLE or FAULT = 1, 42_sequencer.md R144) nothing changes (log 10). -/
def State.emit (e : Event) (s : State) : Result :=
  if s.enabled then
    if s.answered e then .next (s.seqStep e) else .next (s.await e)
  else .next s

/-- Send the byte of command `c` that the position names, in COMMAND mode (40_cmdenc.md R102). -/
def State.sendCommand (c : Cmd) (p : Byte) (s : State) : Result :=
  s.emit (.tx .command (s.commandByte c p))

/-! ### The fault -/

/-- `raise F(info)`, the fault entry (60_exceptions.md R182): FAULT, FCODE and FINFO, and nothing else. No event is
performed, and the position keeps naming the slot. There is no return from it (R183, R187). -/
def State.raise (c : FCode) (info : Nat) (s : State) : State := s.setFault c info

/-! ### Acceptance -/

/-- Accept a request whose effect is `f`. Where the channel is not ready the request waits and nothing changes
(42_sequencer.md R140). -/
def State.accept (f : State → State) (s : State) : Result :=
  if s.ready then .next (f s) else .next s

/-! ### Block reset -/

/-- What the `n`-th block reset leaves in CFG: unspecified (70_reset_and_hazards.md R200, R201) (log 4). -/
def unspecifiedCfg (n : Nat) : Cfg where
  lowCol    := Config.freeCfg n 0
  highCol   := Config.freeCfg n 1
  page      := Config.freeCfg n 2
  startLine := Config.freeCfg n 3
  contrast  := Config.freeCfg n 4
  polarity  := Config.freeCfg n 5
  mux       := Config.freeCfg n 6
  offset    := Config.freeCfg n 7
  clock     := Config.freeCfg n 8
  charge    := Config.freeCfg n 9
  vcom      := Config.freeCfg n 10
  dcdc      := Config.freeCfg n 11

/-- The block reset (R200): whatever the block was doing is abandoned, its state takes the values of R200 with CFG,
LENR and FINFO unspecified, the trace starts empty and no event is performed. The line is at the level that does not
hold the controller in reset: 1, RES_ASSERT being 0 (log 15). A byte that was handed over is withdrawn (log 23). The
frame buffer, the host's requests, the environment and the parameters are not the block's and stay. The input is
released (log 5). -/
def State.blockReset (s : State) : State where
  cfg         := unspecifiedCfg s.freeIx
  op          := .idle
  row         := 0
  stepNo      := 0
  lenR        := Config.freeLenR s.freeIx % 2 ^ s.par.lenW
  life        := .uninit
  initialized := false
  dc          := .command
  res         := !s.par.resAssert
  fault       := false
  fCode       := .none
  fInfo       := Config.freeFInfo s.freeIx % 2 ^ s.par.lenW
  fb          := s.fb
  host        := s.host
  rstIn       := false
  env         := s.env
  handed      := none
  trace       := []
  par         := s.par
  freeIx      := s.freeIx + 1

end Sys2Proof.Machine
end

