-- ==== Sys2Proof/Machine/Commands.lean ====
section
/-! DEFINITION. The meanings of the fourteen commands (40_cmdenc.md R104 to R117). One call is one step of SEQ, which
sends one byte: a two-byte command takes two calls, and the position says which byte is due (R107; log 9). No command
writes an arithmetic flag or raises a fault. -/

namespace Sys2Proof.Machine

/-- SETLOWCOL, lower column address (R104). -/
def execSetLowCol (p : Byte) (s : State) : Result := s.sendCommand .setLowCol p

/-- SETHIGHCOL, higher column address (R105). -/
def execSetHighCol (p : Byte) (s : State) : Result := s.sendCommand .setHighCol p

/-- SETPAGE, page address (R106). -/
def execSetPage (p : Byte) (s : State) : Result := s.sendCommand .setPage p

/-- SETSTARTLINE, display start line: the address byte at its first step, the value byte at its second (R107). -/
def execSetStartLine (p : Byte) (s : State) : Result := s.sendCommand .setStartLine p

/-- SETCONTRAST, contrast level: address byte, then value byte (R108). -/
def execSetContrast (p : Byte) (s : State) : Result := s.sendCommand .setContrast p

/-- SETPOLARITY, normal or reverse polarity (R109). -/
def execSetPolarity (p : Byte) (s : State) : Result := s.sendCommand .setPolarity p

/-- SETMUX, multiplex ratio: address byte, then value byte (R110). -/
def execSetMux (p : Byte) (s : State) : Result := s.sendCommand .setMux p

/-- SETOFFSET, display offset: address byte, then value byte (R111). -/
def execSetOffset (p : Byte) (s : State) : Result := s.sendCommand .setOffset p

/-- SETCLOCK, clock-divide and oscillator-frequency code: address byte, then value byte (R112). -/
def execSetClock (p : Byte) (s : State) : Result := s.sendCommand .setClock p

/-- SETCHARGE, charge period: address byte, then value byte (R113). -/
def execSetCharge (p : Byte) (s : State) : Result := s.sendCommand .setCharge p

/-- SETVCOM, VCOM deselect level: address byte, then value byte (R114). -/
def execSetVcom (p : Byte) (s : State) : Result := s.sendCommand .setVcom p

/-- SETDCDC, DC-DC control mode: address byte, then value byte; nothing is ORed into the value (R115). -/
def execSetDcdc (p : Byte) (s : State) : Result := s.sendCommand .setDcdc p

/-- DISPOFF, display off; its parameter input is 0 and is ignored (R116). -/
def execDispOff (s : State) : Result := s.sendCommand .dispOff 0

/-- DISPON, display on. As the last step of INIT it also marks the block initialized (42_sequencer.md R149), by the advance (R117). -/
def execDispOn (s : State) : Result := s.sendCommand .dispOn 0

end Sys2Proof.Machine
end

