-- ==== Sys2Proof/Machine/Data.lean ====
section
/-! DEFINITION. The meaning of the data byte (42_sequencer.md R154). -/

namespace Sys2Proof.Machine

/-- DATA: a data slot of DISPLAY sends `d`, the bit reversal of the frame-buffer byte (R154; the fetch applies `rev8`).
Where the slot's offset is not inside the buffer the step raises FbOutOfBounds with the offset instead, and sends nothing
(60_exceptions.md R181, R182). Away from a data slot, where the fetch never yields a data byte, there is no offset to
judge (log 21). -/
def execData (d : Byte) (s : State) : Result :=
  if s.enabled && s.atDataSlot && decide (s.lenR ≤ s.dataOffset) then .next (s.raise .fbOutOfBounds s.dataOffset)
  else s.emit (.tx .data d)

end Sys2Proof.Machine
end

