-- ==== Sys2Proof/Machine/Requests.lean ====
section
/-! DEFINITION. The meanings of the four host requests: their acceptance (42_sequencer.md R140, R141). Every operation
is accepted in every lifecycle state (R157). -/

namespace Sys2Proof.Machine

/-- NOP: accepted like every request, and it changes nothing (R143). -/
def execNop (s : State) : Result := s.accept id

/-- INIT: CFG is latched from the operand, LIFE becomes RESETTING and the position is the first event of INIT
(R141, R142, R146). -/
def execInit (cfg : Cfg) (s : State) : Result :=
  s.accept fun s => ((s.latchCfg cfg).setLife .resetting).setPc .init 0 0

/-- DEINIT: the position is the first event of DEINIT; LIFE and INITIALIZED keep their values until its last step
(R141, R150, R151). -/
def execDeinit (s : State) : Result := s.accept fun s => s.setPc .deinit 0 0

/-- DISPLAY: LENR is loaded with the length, which is not compared with anything here, and the position is the first
slot of row 0 (R141, R152, R162). -/
def execDisplay (len : Nat) (s : State) : Result := s.accept fun s => (s.latchLen len).setPc .display 0 0

end Sys2Proof.Machine
end

