-- ==== Sys2Proof/Machine/Dispatch.lean ====
section
/-! DEFINITION. exec: one arm per instruction, each one direct call of its meaning. -/

namespace Sys2Proof.Machine

/-- The meaning of an instruction. -/
def exec (i : Instr) (s : State) : Host.Outcome State Fault Refusal :=
  match i with
  | .setLowCol p => Sys2Proof.Machine.execSetLowCol p s
  | .setHighCol p => Sys2Proof.Machine.execSetHighCol p s
  | .setPage p => Sys2Proof.Machine.execSetPage p s
  | .setStartLine p => Sys2Proof.Machine.execSetStartLine p s
  | .setContrast p => Sys2Proof.Machine.execSetContrast p s
  | .setPolarity p => Sys2Proof.Machine.execSetPolarity p s
  | .setMux p => Sys2Proof.Machine.execSetMux p s
  | .setOffset p => Sys2Proof.Machine.execSetOffset p s
  | .setClock p => Sys2Proof.Machine.execSetClock p s
  | .setCharge p => Sys2Proof.Machine.execSetCharge p s
  | .setVcom p => Sys2Proof.Machine.execSetVcom p s
  | .setDcdc p => Sys2Proof.Machine.execSetDcdc p s
  | .dispOff => Sys2Proof.Machine.execDispOff s
  | .dispOn => Sys2Proof.Machine.execDispOn s
  | .data d => Sys2Proof.Machine.execData d s
  | .nop => Sys2Proof.Machine.execNop s
  | .init cfg => Sys2Proof.Machine.execInit cfg s
  | .deinit => Sys2Proof.Machine.execDeinit s
  | .display len => Sys2Proof.Machine.execDisplay len s

end Sys2Proof.Machine
end

