-- ==== Sys2Proof/Machine/Fetch.lean ====
section
/-! DEFINITION. What the next step performs: the request on the channel while the block is idle, and otherwise the one
event the position names (42_sequencer.md R140, R144). The block fetches no instruction from memory (20_memory.md R63).
Then the placing of an instruction there, for `State.withFetchWord`. -/

namespace Sys2Proof.Machine

/-- What the next step performs. -/
inductive Fetched where
  /-- The block is idle and no request is presented. -/
  | wait
  /-- A request to accept, or a byte of a command or of the frame. -/
  | instr (i : Instr)
  /-- An event of the reset pulse, which is no row of the opcode table. -/
  | pulse (e : Event)
  /-- The position names no event. -/
  | nothing
  deriving DecidableEq, Repr

/-- The request on the channel, decoded (30_encoding.md R80). -/
def State.fetchRequest (s : State) : Fetched :=
  match s.host with
  | [] => .wait
  | w :: _ => .instr (decodeRequest w)

/-- A step of INIT or DEINIT: an event of the reset pulse, or a command with its register of CFG as parameter
(42_sequencer.md R148, R151). -/
def State.fetchSlot (s : State) : Fetched :=
  match s.slot? with
  | none => .nothing
  | some (.pulse e) => .pulse e
  | some (.cmd c _) => .instr (c.toInstr (s.cfg.param c))

/-- A step of DISPLAY: the three addressing slots (42_sequencer.md R153), then the data slots, each reading its byte
of the frame buffer and reversing it (R154, 20_memory.md R52), once: a byte that waits at the transport has been read
(R61). For an offset outside the buffer the byte is never sent: `execData` raises. -/
def State.fetchDisplay (s : State) : Fetched :=
  if s.row.toNat < s.par.height ∧ s.stepNo ≤ s.par.wb + 2 then
    match s.stepNo with
    | 0 => .instr (.setPage 0)
    | 1 => .instr (.setLowCol s.rowLow)
    | 2 => .instr (.setHighCol s.rowHigh)
    | _ => .instr (.data (s.slotByte (s.fb.read s.dataOffset)))
  else .nothing

/-- What the next step performs. -/
def State.fetch (s : State) : Fetched :=
  match s.op with
  | .idle => s.fetchRequest
  | .init => s.fetchSlot
  | .deinit => s.fetchSlot
  | .display => s.fetchDisplay

/-- The event SEQ's next step works out, where it has one: what the position names (42_sequencer.md R144 i). -/
def State.nextEvent (s : State) : Option Event :=
  match s.fetch with
  | .wait => none
  | .pulse e => some e
  | .nothing => none
  | .instr i =>
    match i.command? with
    | some (c, p) => some (.tx .command (s.commandByte c p))
    | none =>
      match i with
      | .data d => some (.tx .data d)
      | _ => none

/-- The state in which a fetched instruction runs: a request is taken off the channel; SEQ's own bytes take nothing. -/
def State.afterFetch (s : State) : State :=
  match s.op with
  | .idle => s.takeRequest
  | .init => s
  | .deinit => s
  | .display => s

/-- One transition of a block that is not being reset (42_sequencer.md R140, R144). A faulted block takes no step
(60_exceptions.md R183), and an idle one with no request presented has none: both stay as they are (log 6). -/
def State.run (s : State) : Result :=
  if s.fault then .next s
  else
    match s.fetch with
    | .wait => .next s
    | .instr i => exec i s.afterFetch
    | .pulse e => s.emit e
    | .nothing => .fault .noEventAtPosition

/-- One transition. The block reset wins over everything (60_exceptions.md R186). -/
def State.transition (s : State) : Result :=
  if s.rstIn then .next s.blockReset else s.run

/-! ### Placing an instruction where the next step finds it (log 13) -/

/-- CFG with the register of command `c` set to `p`. -/
def Cfg.withParam (cfg : Cfg) (p : Byte) : Cmd → Cfg
  | .setLowCol => { cfg with lowCol := p }
  | .setHighCol => { cfg with highCol := p }
  | .setPage => { cfg with page := p }
  | .setStartLine => { cfg with startLine := p }
  | .setContrast => { cfg with contrast := p }
  | .setPolarity => { cfg with polarity := p }
  | .setMux => { cfg with mux := p }
  | .setOffset => { cfg with offset := p }
  | .setClock => { cfg with clock := p }
  | .setCharge => { cfg with charge := p }
  | .setVcom => { cfg with vcom := p }
  | .setDcdc => { cfg with dcdc := p }
  | .dispOff => cfg
  | .dispOn => cfg

/-- The STEP of INIT at which the first byte of a command is sent (42_sequencer.md R147). -/
def initStepOf (p : Params) (c : Cmd) : Nat := (initPlan p).findIdx fun x => x == .cmd c false

/-- The state whose next step performs the first byte of command `c` with parameter `v`: inside INIT, with the
command's register of CFG holding `v`. -/
def State.placeCommand (c : Cmd) (v : Byte) (s : State) : State :=
  { s with op := .init, row := 0, stepNo := initStepOf s.par c, life := .config, cfg := Cfg.withParam s.cfg v c,
           fault := false, fCode := .none, rstIn := false }

/-- The state whose next step sends data byte `d`: the first data slot of DISPLAY, with the buffer's first byte the
reversal of `d` (41_bitrev.md R131) and a length that covers the frame. -/
def State.placeData (d : Byte) (s : State) : State :=
  { s with op := .display, row := 0, stepNo := 3, lenR := s.par.frameBytes, fb := s.fb.write 0 (rev8 d), handed := none,
           fault := false, fCode := .none, rstIn := false }

/-- The state whose next step accepts the request of word `w`: idle, with `w` on the channel. -/
def State.placeRequest (w : ReqWord) (s : State) : State :=
  { s with op := .idle, row := 0, stepNo := 0, host := w :: s.host, fault := false, fCode := .none, rstIn := false }

/-- Place the instruction of a packet. A packet that the decoder refuses changes nothing. -/
def State.place (k : Packet) (s : State) : State :=
  match k with
  | .request w => s.placeRequest w
  | .data b => s.placeData b
  | .command bytes =>
    match decode s.par.table (.command bytes) with
    | .error _ => s
    | .ok i =>
      match i.command? with
      | none => s
      | some (c, v) => s.placeCommand c v

end Sys2Proof.Machine
end

