-- ==== Sys2Proof/Machine/Step.lean ====
section
/-! DEFINITION. The step function, and the placing of an opcode-table word where the next step finds it. -/

namespace Sys2Proof.Machine

/-- One step of the machine. -/
def step : State → Host.Outcome State Fault Refusal := State.transition

/-- The state in which the instruction of a table word is the one the next step runs (log 12, log 13). -/
def State.withFetchWord (s : State) (nbits w : Nat) : State :=
  match packetOfTableWord nbits w with
  | none => s
  | some k => s.place k

end Sys2Proof.Machine
end

