-- ==== Sys2Proof/Machine/TraceText.lean ====
section
/-! DEFINITION. The text of events and requests, and the pseudo-operations with their expansions
(30_encoding.md R79). -/

namespace Sys2Proof

/-- An upper-case hexadecimal digit. -/
def hexDigit (n : Nat) : Char := Char.ofNat (if n < 10 then 48 + n else 55 + n)

/-- Two hexadecimal digits. -/
def byteDigits (b : Byte) : String := String.ofList [hexDigit (b.toNat / 16), hexDigit (b.toNat % 16)]

/-- The text of an event (R79). -/
def Event.text : Event → String
  | .res l => if l then "RES 1" else "RES 0"
  | .dly ms => "DLY " ++ Nat.repr ms
  | .tx .command b => "CMD 0x" ++ byteDigits b
  | .tx .data b => "DAT 0x" ++ byteDigits b

/-- The twelve bytes of a configuration, k = 0 to 11. -/
def Cfg.bytes (c : Cfg) : List Byte := Cmd.config.map c.param

/-- The mnemonic of a command (R74). -/
def Cmd.mnemonic : Cmd → String
  | .setLowCol => "SETLOWCOL"
  | .setHighCol => "SETHIGHCOL"
  | .setPage => "SETPAGE"
  | .setStartLine => "SETSTARTLINE"
  | .setContrast => "SETCONTRAST"
  | .setPolarity => "SETPOLARITY"
  | .setMux => "SETMUX"
  | .setOffset => "SETOFFSET"
  | .setClock => "SETCLOCK"
  | .setCharge => "SETCHARGE"
  | .setVcom => "SETVCOM"
  | .setDcdc => "SETDCDC"
  | .dispOff => "DISPOFF"
  | .dispOn => "DISPON"

/-- The text of a command with its parameter (R79). -/
def Cmd.text (c : Cmd) (p : Byte) : String := c.mnemonic ++ " 0x" ++ byteDigits p

/-- The text of an instruction: a command by its mnemonic with its parameter, a data byte as its event, a request with
its operands (R79). -/
def Instr.text : Instr → String
  | .setLowCol p => Cmd.setLowCol.text p
  | .setHighCol p => Cmd.setHighCol.text p
  | .setPage p => Cmd.setPage.text p
  | .setStartLine p => Cmd.setStartLine.text p
  | .setContrast p => Cmd.setContrast.text p
  | .setPolarity p => Cmd.setPolarity.text p
  | .setMux p => Cmd.setMux.text p
  | .setOffset p => Cmd.setOffset.text p
  | .setClock p => Cmd.setClock.text p
  | .setCharge p => Cmd.setCharge.text p
  | .setVcom p => Cmd.setVcom.text p
  | .setDcdc p => Cmd.setDcdc.text p
  | .dispOff => Cmd.dispOff.mnemonic
  | .dispOn => Cmd.dispOn.mnemonic
  | .data d => (Event.tx .data d).text
  | .nop => "NOP"
  | .init cfg => cfg.bytes.foldl (fun acc b => acc ++ " " ++ byteDigits b) "INIT"
  | .deinit => "DEINIT"
  | .display len => "DISPLAY " ++ Nat.repr len

/-- A pseudo-operation (R79). -/
inductive Pseudo where
  | resetPulse
  | write (c : Cmd) (p : Byte)
  | rowAddr (j : Nat)
  | rowData (j : Nat)
  deriving DecidableEq, Repr

/-- The expansion of a pseudo-operation into events (R79), for a buffer given as the byte at each offset. -/
def Pseudo.expand (p : Params) (fb : Nat → Byte) : Pseudo → List Event
  | .resetPulse => Machine.resetPulse p
  | .write c v => encSeq p.table c v
  | .rowAddr j => (Machine.rowList p fb j).take 3
  | .rowData j => (Machine.rowList p fb j).drop 3

end Sys2Proof
end

