-- ==== Sys2Proof/Machine/HostPort.lean ====
section
/-! DEFINITION. What the host and the environment can do to the machine between two steps (INVENTORY.md,
Host interface). Reading the status word and the lines is in Flags.lean; it changes nothing. -/

namespace Sys2Proof.Machine

/-- An act of the host or of the environment. -/
inductive HostAct where
  /-- Present a request, after those already waiting to be made (42_sequencer.md R140; log 7). -/
  | present (w : ReqWord)
  /-- Store a byte into the frame buffer (20_memory.md R52, R63; 70_reset_and_hazards.md R207; log 20). -/
  | store (off : Nat) (b : Byte)
  /-- Assert the block's reset input (70_reset_and_hazards.md R200; log 5). -/
  | assertReset
  /-- The environment begins or ceases to answer (20_memory.md R65; log 11). -/
  | setEnv (e : Env)
  deriving DecidableEq, Repr

/-- Add a request to the host's program. -/
def State.present (w : ReqWord) (s : State) : State := { s with host := s.host ++ [w] }

/-- Store a byte into the frame buffer. -/
def State.storeFb (off : Nat) (b : Byte) (s : State) : State := { s with fb := s.fb.write off b }

/-- Assert the reset input. -/
def State.assertReset (s : State) : State := { s with rstIn := true }

/-- Set what the environment does. -/
def State.setEnv (e : Env) (s : State) : State := { s with env := e }

/-- The effect of an act. None writes a register of the block. -/
def HostAct.apply (a : HostAct) (s : State) : State :=
  match a with
  | .present w => s.present w
  | .store off b => s.storeFb off b
  | .assertReset => s.assertReset
  | .setEnv e => s.setEnv e

end Sys2Proof.Machine
end

