-- ==== Sys2Proof/Safety.lean ====
section
/-! DEFINITION. What the reachable states have in common (10_state.md R35), and the host's contract that keeps the fault
away (60_exceptions.md R181, 70_reset_and_hazards.md R204, R207). -/

namespace Sys2Proof

/-- The first-byte set of command `c` (30_encoding.md R75 b): the tag with any parameter inside PMASK for KIND ONE, the
tag alone for KIND TWO. -/
def Table.FirstByte (t : Table) (c : Cmd) (b : Byte) : Prop :=
  match (t.entry c).kind with
  | .one => ∃ q : Byte, q &&& ~~~(t.entry c).mask = 0 ∧ b = (t.entry c).tag ||| q
  | .two => b = (t.entry c).tag

namespace Machine

/-- The relations of R35 between the position and LIFE. -/
def State.positionOk (s : State) : Prop :=
  match s.op with
  | .idle => s.row = 0 ∧ s.stepNo = 0
  | .init => s.row = 0 ∧ s.stepNo < s.par.initLen ∧ s.life = (if s.stepNo ≤ 3 then .resetting else .config)
  | .deinit => s.row = 0 ∧ s.stepNo < Params.deinitLen
  | .display => s.row.toNat < s.par.height ∧ s.stepNo ≤ s.par.wb + 2

/-- The controller is held in reset exactly between the first and the third event of the reset pulse
(42_sequencer.md R145). -/
def State.resetLineOk (s : State) : Prop :=
  s.res = s.par.resAssert ↔ (s.op = .init ∨ s.op = .deinit) ∧ (s.stepNo = 1 ∨ s.stepNo = 2)

/-- FCODE follows FAULT; a faulted block stands at the data slot whose offset FINFO holds (60_exceptions.md R180 to
R183). -/
def State.faultOk (s : State) : Prop :=
  if s.fault then
    s.fCode = .fbOutOfBounds ∧ s.op = .display ∧ 3 ≤ s.stepNo ∧ s.fInfo = s.dataOffset ∧ s.lenR ≤ s.fInfo
  else s.fCode = .none

/-- A byte is at the transport only in the middle of a data slot's event, inside the buffer and with DC at DATA
(20_memory.md R61, R65; log 23). -/
def State.handedOk (s : State) : Prop :=
  s.handed ≠ none → s.op = .display ∧ 3 ≤ s.stepNo ∧ s.dataOffset < s.lenR ∧ s.dc = .data

/-- The invariant of every reachable state: R35, and the widths of STEP, LENR and FINFO (R22, R27, R31). -/
structure State.Inv (s : State) : Prop where
  /-- The parameters are in the ranges of 00_scope.md R6 and 30_encoding.md R75. -/
  params      : s.par.wf = true
  /-- The frame buffer is in its canonical form. -/
  memory      : s.fb.wf = true
  /-- R35, by operation. -/
  position    : s.positionOk
  /-- R35: LIFE = ON implies INITIALIZED = 1. -/
  onIsInit    : s.life = .on → s.initialized = true
  /-- 42_sequencer.md R145. -/
  resetLine   : s.resetLineOk
  /-- 60_exceptions.md R180 to R183. -/
  faults      : s.faultOk
  /-- 20_memory.md R61, R65. -/
  handover    : s.handedOk
  /-- STEP fits STEPW bits (R22). -/
  stepWidth   : s.stepNo < 2 ^ s.par.stepW
  /-- LENR fits LENW bits (R31). -/
  lenWidth    : s.lenR < 2 ^ s.par.lenW
  /-- FINFO fits LENW bits (R27). -/
  infoWidth   : s.fInfo < 2 ^ s.par.lenW
  /-- The host's requests fit their fields (30_encoding.md R80). -/
  requests    : ∀ w ∈ s.host, w.wf s.par = true

/-- A DISPLAY request hands over at least a frame (60_exceptions.md R181). -/
def ReqWord.coversFrame (p : Params) (w : ReqWord) : Prop := w.op = 3 → p.frameBytes ≤ w.len

/-- The host keeps its contract on buffer lengths: every DISPLAY it has made or will make covers the frame. -/
structure State.Contract (s : State) : Prop where
  running  : s.op = .display → s.par.frameBytes ≤ s.lenR
  waiting  : ∀ w ∈ s.host, ReqWord.coversFrame s.par w
  noFault  : s.fault = false

/-- The block is in the middle of an event for which the environment does not answer (20_memory.md R65). -/
def State.Waiting (s : State) : Prop :=
  s.rstIn = false ∧ s.fault = false ∧ (s.atDataSlot = true → s.dataOffset < s.lenR) ∧
  ∃ e, s.nextEvent = some e ∧ s.answered e = false

/-- The step takes a next state: the machine does not stop. -/
def State.goesOn (s : State) : Prop := ∃ t, step s = .next t

/-- The state after `k` steps, where the machine goes on that far. -/
def State.afterSteps : Nat → State → Option State
  | 0, s => some s
  | k + 1, s =>
    match step s with
    | .next t => State.afterSteps k t
    | .fault _ => none
    | .refused _ => none

end Machine

end Sys2Proof
end

