-- ==== Sys2Proof/Certificates/Slice0/Obligations.lean ====
section
/-! DEFINITION. The statements for the provers. -/

open Sys2Proof Sys2Proof.Machine

/-! ### CMDENC, BITREV and the encodings -/

/-- 30_encoding.md R75: the tables the model calls well-formed are exactly those that meet the two constraints, and in
which the five commands that SEQ sends through Enc1 are of KIND ONE (the model's own condition, DEDUCED, log 17). In
such a table the parameter is recovered from the byte. -/
def Obligations.WellFormedTableSeparatesCommands : Prop :=
  ∀ t : Table,
    (t.wf = true ↔
      (∀ c, (t.entry c).kind = .one → (t.entry c).tag &&& (t.entry c).mask = 0) ∧
      (∀ c d b, t.FirstByte c b → t.FirstByte d b → c = d) ∧
      (∀ c ∈ ([.setLowCol, .setHighCol, .setPage, .dispOff, .dispOn] : List Cmd), (t.entry c).kind = .one)) ∧
    (t.wf = true → ∀ c p, (t.entry c).kind = .one →
      ((t.entry c).tag ||| (p &&& (t.entry c).mask)) &&& (t.entry c).mask = p &&& (t.entry c).mask)

/-- R75 of the default table: it meets both constraints, and its first-byte sets are the ones R75 lists. The tags but
for 0x00 and 0x10 are the spec's general knowledge (PRESUMED, log 2). -/
def Obligations.DefaultTableMeetsItsConstraints : Prop :=
  (∀ c, (Table.default.entry c).kind = .one → (Table.default.entry c).tag &&& (Table.default.entry c).mask = 0) ∧
  (∀ c d b, Table.default.FirstByte c b → Table.default.FirstByte d b → c = d) ∧
  (∀ b : Byte,
    (Table.default.FirstByte .setLowCol b ↔ b ≤ 0x0F) ∧
    (Table.default.FirstByte .setHighCol b ↔ 0x10 ≤ b ∧ b ≤ 0x1F) ∧
    (Table.default.FirstByte .setPage b ↔ 0xB0 ≤ b ∧ b ≤ 0xBF) ∧
    (Table.default.FirstByte .setStartLine b ↔ b = 0xDC) ∧
    (Table.default.FirstByte .setContrast b ↔ b = 0x81) ∧
    (Table.default.FirstByte .setPolarity b ↔ b = 0xA6 ∨ b = 0xA7) ∧
    (Table.default.FirstByte .setMux b ↔ b = 0xA8) ∧
    (Table.default.FirstByte .setOffset b ↔ b = 0xD3) ∧
    (Table.default.FirstByte .setClock b ↔ b = 0xD5) ∧
    (Table.default.FirstByte .setCharge b ↔ b = 0xD9) ∧
    (Table.default.FirstByte .setVcom b ↔ b = 0xDB) ∧
    (Table.default.FirstByte .setDcdc b ↔ b = 0xAD) ∧
    (Table.default.FirstByte .dispOff b ↔ b = 0xAE) ∧
    (Table.default.FirstByte .dispOn b ↔ b = 0xAF)) ∧
  Table.default.wf = true

/-- 40_cmdenc.md R103 (c), (d), (e), for every well-formed table: the encoder is lossless on the legal range, the byte
is the OR of tag and parameter there, and bits outside the mask are dropped. That it is total, pure and independent of
the state ((a), (b), (f)) is that it is a function of table, command and parameter. -/
def Obligations.EncoderIsLosslessInsideTheMask : Prop :=
  ∀ (t : Table) (c : Cmd) (p q : Byte), t.wf = true →
    ((t.entry c).kind = .one →
      enc1 t c p &&& (t.entry c).mask = p &&& (t.entry c).mask ∧
      enc1 t c p &&& ~~~(t.entry c).mask = (t.entry c).tag ∧
      (p &&& ~~~(t.entry c).mask = 0 → enc1 t c p = (t.entry c).tag ||| p) ∧
      (p &&& ~~~(t.entry c).mask = 0 → q &&& ~~~(t.entry c).mask = 0 → enc1 t c p = enc1 t c q → p = q)) ∧
    ((t.entry c).kind = .two → (t.entry c).mask = 0xFF → enc2 t c p = ((t.entry c).tag, p)) ∧
    encSeq t c p = encSeq t c (p &&& (t.entry c).mask)

/-- Decoding the words of an instruction gives the instruction back: every instruction, every operand its encoding
carries, every well-formed table. -/
def Obligations.DecodeOfEncodeIsTheInstruction : Prop :=
  ∀ (p : Params) (i : Instr), p.wf = true → i.wf p = true → decode p.table (encode p.table i) = .ok i

/-- With the default table, the bytes of a command or of a data byte that decode to an instruction are its encoding: no
bit of them is dropped. -/
def Obligations.EncodeOfDecodeIsTheBytes : Prop :=
  (∀ bytes i, decode Table.default (.command bytes) = .ok i → encode Table.default i = .command bytes) ∧
  (∀ b i, decode Table.default (.data b) = .ok i → encode Table.default i = .data b)

/-- Words written out from R71, R73, R74 and R80 decode to what they stand for. -/
def Obligations.WordsWrittenOutDecode : Prop :=
  decode Table.default (.command [0x07]) = .ok (.setLowCol 0x07) ∧
  decode Table.default (.command [0x13]) = .ok (.setHighCol 0x03) ∧
  decode Table.default (.command [0xB5]) = .ok (.setPage 0x05) ∧
  decode Table.default (.command [0xA7]) = .ok (.setPolarity 0x01) ∧
  decode Table.default (.command [0xDC, 0xAE]) = .ok (.setStartLine 0xAE) ∧
  decode Table.default (.command [0x81, 0x80]) = .ok (.setContrast 0x80) ∧
  decode Table.default (.command [0xDB, 0xDB]) = .ok (.setVcom 0xDB) ∧
  decode Table.default (.command [0xAE]) = .ok .dispOff ∧
  decode Table.default (.command [0xAF]) = .ok .dispOn ∧
  decode Table.default (.data 0xAE) = .ok (.data 0xAE) ∧
  decode Table.default (.request ⟨2, 0, 0⟩) = .ok .deinit ∧
  decode Table.default (.request ⟨3, 0, 36⟩) = .ok (.display 36)

/-- R76: with the default table a COMMAND-mode first byte is unknown exactly outside the ranges the opcode map lists. -/
def Obligations.OtherFirstBytesAreUnknown : Prop :=
  ∀ (b : Byte) (rest : List Byte),
    decodeCommand Table.default (b :: rest) = .error (.unknownFirstByte b) ↔
      (0x20 ≤ b ∧ b ≤ 0x80) ∨ (0x82 ≤ b ∧ b ≤ 0xA5) ∨ (0xA9 ≤ b ∧ b ≤ 0xAC) ∨ (0xC0 ≤ b ∧ b ≤ 0xD2) ∨ b = 0xD4 ∨
      (0xD6 ≤ b ∧ b ≤ 0xD8) ∨ b = 0xDA ∨ 0xDD ≤ b

/-- 41_bitrev.md R130: bit k of the result is bit 7 - k, which is also the sum R130 gives; its corner cases; and the
sixteen bytes that are their own reversal. -/
def Obligations.RevEightReversesTheBits : Prop :=
  (∀ (b : Byte) (k : Fin 8), (rev8 b).getLsbD k = b.getLsbD (7 - k)) ∧
  rev8 0x00 = 0x00 ∧ rev8 0xFF = 0xFF ∧ rev8 0x01 = 0x80 ∧ rev8 0x80 = 0x01 ∧
  (∀ b : Byte, (rev8 b).toNat = ((List.range 8).map fun k => (b.getLsbD k).toNat * 2 ^ (7 - k)).sum) ∧
  (∀ b : Byte, rev8 b = b ↔
    b ∈ ([0x00, 0x18, 0x24, 0x3C, 0x42, 0x5A, 0x66, 0x7E, 0x81, 0x99, 0xA5, 0xBD, 0xC3, 0xDB, 0xE7, 0xFF] : List Byte))

/-- R131 and R132: `rev8` is an involution and a bijection, and keeps the number of one bits. -/
def Obligations.RevEightIsAnInvolutionAndABijection : Prop :=
  (∀ b : Byte, rev8 (rev8 b) = b) ∧
  (∀ a b : Byte, rev8 a = rev8 b → a = b) ∧
  (∀ b : Byte, ∃ a, rev8 a = b) ∧
  (∀ b : Byte, ((List.range 8).map fun k => ((rev8 b).getLsbD k).toNat).sum =
    ((List.range 8).map fun k => (b.getLsbD k).toNat).sum)

/-- R80: the four codes of REQ_OP, the twelve bytes of REQ_CFG, and that fields an operation does not use are
ignored. Every word decodes. -/
def Obligations.RequestWordsDecodeByTheirFields : Prop :=
  ∀ (t : Table) (cfg : BitVec 96) (len : Nat),
    decode t (.request ⟨0, cfg, len⟩) = .ok .nop ∧
    decode t (.request ⟨2, cfg, len⟩) = .ok .deinit ∧
    decode t (.request ⟨3, cfg, len⟩) = .ok (.display len) ∧
    ∃ c : Cfg, decode t (.request ⟨1, cfg, len⟩) = .ok (.init c) ∧ packCfg c = cfg ∧
      ∀ (k : Fin 12) (b : Fin 8), ((c.bytes)[k.val]?.getD 0).getLsbD b = cfg.getLsbD (8 * k + b)

/-- 95_test_vectors.md S6: the trace of an INIT decodes to the reset pulse, DISPOFF, the twelve writes in their order
with each parameter inside its mask, and DISPON, and nothing in it is unknown. That the pulse goes to RES_ASSERT and
then to the other level is R145 for the default RES_ASSERT = 0; for 1 it is the model's reading (DEDUCED, log 15). -/
def Obligations.InitTraceDecodesToTheWrites : Prop :=
  ∀ (p : Params) (cfg : Cfg), p.wf = true →
    decodeTrace p.table (initList p cfg) =
      [.line p.resAssert, .delay p.tResetMs, .line (!p.resAssert), .delay p.tResetMs, .instr .dispOff] ++
      (Cmd.config.map fun c => Decoded.instr (c.toInstr (cfg.param c &&& (p.table.entry c).mask))) ++
      [.instr .dispOn]

/-- R84, R85 of a frame: the trace of a DISPLAY decodes, row by row, to the three addressing commands and the reversed
bytes of the row, and nothing in it is unknown or stray. -/
def Obligations.DisplayTraceDecodesToTheRows : Prop :=
  ∀ (p : Params) (fb : Nat → Byte), p.wf = true →
    decodeTrace p.table (displayList p fb) =
      (List.range p.height).flatMap fun j =>
        [Decoded.instr (.setPage 0),
         .instr (.setLowCol ((BitVec.ofNat 8 j &&& 0x0F) &&& p.table.setLowCol.mask)),
         .instr (.setHighCol ((BitVec.ofNat 8 j >>> 4) &&& p.table.setHighCol.mask))] ++
        (List.range p.wb).map fun i => Decoded.instr (.data (rev8 (fb (i + j * p.wb))))

/-! ### What a step runs -/

/-- 42_sequencer.md R140, R144: a block that is neither reset nor faulted runs, as its next step, the instruction that
the words at its position decode to. For an idle block these are the request word on the channel, and the request is
taken. In INIT and DEINIT they are the bytes of the command the position names, with the command's register of CFG as
parameter; an event of the reset pulse is `emit` of it. In DISPLAY they are the bytes of R153 and R154; a data slot
whose byte has been read and waits at the transport (20_memory.md R61; DESIGN CHOICE and DEDUCED, log 23) runs the DATA
of that byte. For another RES_ASSERT than 0 the two line events of the plan are the model's reading (DEDUCED, log 15).
That the step of an idle block with no request answers the same state is the model's choice (DESIGN CHOICE, log 6). -/
def Obligations.StepRunsTheDecodedInstruction : Prop :=
  ∀ s : State, s.par.wf = true → s.rstIn = false → s.fault = false →
    (∀ w rest i, s.op = .idle → s.host = w :: rest → decode s.par.table (.request w) = .ok i →
      step s = exec i { s with host := rest }) ∧
    (s.op = .idle → s.host = [] → step s = .next s) ∧
    (∀ c v i, s.op = .init → (initPlan s.par)[s.stepNo]? = some (.cmd c v) →
      decode s.par.table (.command (encBytes s.par.table c (s.cfg.param c))) = .ok i → step s = exec i s) ∧
    (∀ c v i, s.op = .deinit → (deinitPlan s.par)[s.stepNo]? = some (.cmd c v) →
      decode s.par.table (.command (encBytes s.par.table c (s.cfg.param c))) = .ok i → step s = exec i s) ∧
    (∀ e, s.op = .init → (initPlan s.par)[s.stepNo]? = some (.pulse e) → step s = s.emit e) ∧
    (∀ e, s.op = .deinit → (deinitPlan s.par)[s.stepNo]? = some (.pulse e) → step s = s.emit e) ∧
    (∀ i, s.op = .display → s.row.toNat < s.par.height → s.stepNo = 0 →
      decode s.par.table (.command (encBytes s.par.table .setPage 0)) = .ok i → step s = exec i s) ∧
    (∀ i, s.op = .display → s.row.toNat < s.par.height → s.stepNo = 1 →
      decode s.par.table (.command (encBytes s.par.table .setLowCol (s.row &&& 0x0F))) = .ok i → step s = exec i s) ∧
    (∀ i, s.op = .display → s.row.toNat < s.par.height → s.stepNo = 2 →
      decode s.par.table (.command (encBytes s.par.table .setHighCol (s.row >>> 4))) = .ok i → step s = exec i s) ∧
    (∀ i, s.op = .display → s.row.toNat < s.par.height → 3 ≤ s.stepNo → s.stepNo ≤ s.par.wb + 2 → s.handed = none →
      decode s.par.table (.data (rev8 (s.fb.read (s.stepNo - 3 + s.row.toNat * s.par.wb)))) = .ok i →
      step s = exec i s) ∧
    (∀ i d, s.op = .display → s.row.toNat < s.par.height → 3 ≤ s.stepNo → s.stepNo ≤ s.par.wb + 2 → s.handed = some d →
      decode s.par.table (.data d) = .ok i → step s = exec i s)

/-- The placing of a table word (the model's own convention, log 12 and log 13): whatever the state, the next step after
`withFetchWord` is the run of the word's instruction. -/
def Obligations.PlacedTableWordIsRunNext : Prop :=
  ∀ (s : State) (nbits w : Nat) (i : Instr), s.par.wf = true → s.fb.wf = true → s.par.table = Table.default →
    decodeTableWord nbits w = some i →
    ((s.withFetchWord nbits w).op = .idle →
      step (s.withFetchWord nbits w) =
        exec i { s.withFetchWord nbits w with host := (s.withFetchWord nbits w).host.tail }) ∧
    ((s.withFetchWord nbits w).op ≠ .idle → step (s.withFetchWord nbits w) = exec i (s.withFetchWord nbits w))

/-! ### The commands and the data byte -/

/-- R100, R101, R102, R144: where SEQ has a step and the transport takes the byte (20_memory.md R65), each of the
fourteen commands sends one byte in COMMAND mode: for KIND ONE the tag ORed with the masked parameter; for KIND TWO the
address byte, and at its second step the masked value byte. -/
def Obligations.CommandSendsTheByteThatIsDue : Prop :=
  ∀ (i : Instr) (c : Cmd) (p : Byte) (s : State), i.command? = some (c, p) → s.op ≠ .idle → s.fault = false →
    s.env.transport = true →
    ∃ t, exec i s = .next t ∧ t.dc = .command ∧
      ((s.par.table.entry c).kind = .one →
        t.trace = s.trace ++ [.tx .command ((s.par.table.entry c).tag ||| (p &&& (s.par.table.entry c).mask))]) ∧
      ((s.par.table.entry c).kind = .two → s.atValueByte = false →
        t.trace = s.trace ++ [.tx .command (s.par.table.entry c).tag]) ∧
      ((s.par.table.entry c).kind = .two → s.atValueByte = true →
        t.trace = s.trace ++ [.tx .command (p &&& (s.par.table.entry c).mask)])

/-- R104, R105, R106, R109, R116, R117: with the default table, where SEQ has a step and the transport answers, the six
one-byte commands run and send these bytes, whatever the position and the parameter. -/
def Obligations.OneByteCommandsSendTheirByte : Prop :=
  ∀ s : State, s.par.table = Table.default → s.op ≠ .idle → s.fault = false → s.env.transport = true →
    ∀ p : Byte, ∀ ib ∈ ([(.setLowCol p, 0x00 ||| (p &&& 0x0F)), (.setHighCol p, 0x10 ||| (p &&& 0x0F)),
        (.setPage p, 0xB0 ||| (p &&& 0x0F)), (.setPolarity p, 0xA6 ||| (p &&& 0x01)),
        (.dispOff, 0xAE), (.dispOn, 0xAF)] : List (Instr × Byte)),
      ∃ t, exec ib.1 s = .next t ∧ t.trace = s.trace ++ [.tx .command ib.2] ∧ t.dc = .command

/-- R107, R108, R110 to R115 at the steps of R147: with the default table and a transport that answers, the eight
two-byte commands take two steps, which send the address byte and then the parameter unchanged. -/
def Obligations.TwoByteCommandsSendAddressThenValue : Prop :=
  ∀ s : State, s.par.table = Table.default → s.op = .init → s.fault = false → s.env.transport = true →
    ∀ p : Byte, ∀ ibn ∈ ([(.setStartLine p, 0xDC, 8), (.setContrast p, 0x81, 10), (.setMux p, 0xA8, 13),
        (.setOffset p, 0xD3, 15), (.setClock p, 0xD5, 17), (.setCharge p, 0xD9, 19), (.setVcom p, 0xDB, 21),
        (.setDcdc p, 0xAD, 23)] : List (Instr × Byte × Nat)), s.stepNo = ibn.2.2 →
      ∃ t u, exec ibn.1 s = .next t ∧ exec ibn.1 t = .next u ∧
        t.trace = s.trace ++ [.tx .command ibn.2.1] ∧ t.stepNo = s.stepNo + 1 ∧ t.dc = .command ∧
        u.trace = s.trace ++ [.tx .command ibn.2.1, .tx .command p] ∧ u.stepNo = s.stepNo + 2 ∧ u.dc = .command

/-- The frame of the fourteen commands. They write the trace, DC and the position, and leave no byte at the transport
that was not there (DESIGN CHOICE, log 23). LIFE and INITIALIZED change only with the step that ends INIT or DEINIT,
and LIFE with step 3 of INIT (10_state.md R24, R29). -/
def Obligations.CommandsLeaveTheRestUnchanged : Prop :=
  ∀ (i : Instr) (c : Cmd) (p : Byte) (s t : State), i.command? = some (c, p) → exec i s = .next t →
    t.cfg = s.cfg ∧ t.lenR = s.lenR ∧ t.res = s.res ∧ t.fault = s.fault ∧ t.fCode = s.fCode ∧ t.fInfo = s.fInfo ∧
    t.host = s.host ∧ t.rstIn = s.rstIn ∧ t.env = s.env ∧ t.par = s.par ∧ t.freeIx = s.freeIx ∧
    (t.handed = s.handed ∨ t.handed = none) ∧
    (∀ a, t.fb.read a = s.fb.read a) ∧
    (s.op = .idle ∨ s.op = .display ∨ (s.op = .init ∧ s.stepNo + 1 < s.par.initLen) ∨
      (s.op = .deinit ∧ s.stepNo + 1 < Params.deinitLen) →
      t.initialized = s.initialized ∧ (¬(s.op = .init ∧ s.stepNo = 3) → t.life = s.life))

/-- R154, the sending: at a data slot whose offset is inside the buffer, with a transport that answers and a
frame-buffer port that answers or has answered for this slot (20_memory.md R61; DESIGN CHOICE and DEDUCED, log 23),
DATA runs and sends its byte in DATA mode. -/
def Obligations.DataByteIsSentInDataMode : Prop :=
  ∀ (d : Byte) (s : State), s.op = .display → s.fault = false → 3 ≤ s.stepNo →
    s.stepNo - 3 + s.row.toNat * s.par.wb < s.lenR → s.env.fbPort = true ∨ s.handed ≠ none → s.env.transport = true →
    ∃ t, exec (.data d) s = .next t ∧ t.trace = s.trace ++ [.tx .data d] ∧ t.dc = .data

/-- 60_exceptions.md R182 at the one place it is used (R181): at a data slot whose offset is not inside the buffer, DATA
raises FbOutOfBounds. FAULT, FCODE and FINFO are written, and nothing else changes. -/
def Obligations.DataByteOutsideTheBufferRaises : Prop :=
  ∀ (d : Byte) (s : State), s.op = .display → s.fault = false → 3 ≤ s.stepNo →
    s.lenR ≤ s.stepNo - 3 + s.row.toNat * s.par.wb →
    exec (.data d) s = .next { s with fault := true, fCode := .fbOutOfBounds,
                                      fInfo := s.stepNo - 3 + s.row.toNat * s.par.wb }

/-- The frame of DATA, whether it sends, waits or raises: FAULT, FCODE and FINFO change only where it raises, and then
the trace, DC, the byte at the transport and the position do not. A byte comes to stand at the transport only where
DATA waits for it (DESIGN CHOICE, log 23). -/
def Obligations.DataByteLeavesTheRestUnchanged : Prop :=
  ∀ (d : Byte) (s t : State), exec (.data d) s = .next t →
    t.cfg = s.cfg ∧ t.lenR = s.lenR ∧ t.res = s.res ∧
    t.host = s.host ∧ t.rstIn = s.rstIn ∧ t.env = s.env ∧ t.par = s.par ∧ t.freeIx = s.freeIx ∧
    (t.handed = s.handed ∨ t.handed = none ∨ (t.handed = some d ∧ t.trace = s.trace)) ∧
    (∀ a, t.fb.read a = s.fb.read a) ∧
    (s.op = .idle ∨ s.op = .display → t.life = s.life ∧ t.initialized = s.initialized) ∧
    (t.fault = s.fault → t.fCode = s.fCode ∧ t.fInfo = s.fInfo) ∧
    (t.fault ≠ s.fault → t.trace = s.trace ∧ t.dc = s.dc ∧ t.handed = s.handed ∧ t.op = s.op ∧ t.row = s.row ∧
      t.stepNo = s.stepNo)

/-- R144: when OP is IDLE or FAULT is 1 SEQ has no step, and no command or data byte is sent. That the meaning then
answers the same state is the model's choice (DEDUCED, log 10). -/
def Obligations.NothingIsSentWithoutAStep : Prop :=
  ∀ s : State, s.op = .idle ∨ s.fault = true →
    (∀ i c p, i.command? = some (c, p) → exec i s = .next s) ∧ (∀ d, exec (.data d) s = .next s)

/-! ### The requests -/

/-- R141, with R143 and R142: the effect of accepting each request, and that nothing else changes. Every value of LIFE
accepts (R157). -/
def Obligations.RequestsAreAcceptedAtOnce : Prop :=
  ∀ s : State, s.op = .idle → s.fault = false →
    exec .nop s = .next s ∧
    (∀ cfg, exec (.init cfg) s =
      .next { s with cfg := cfg, life := .resetting, op := .init, row := 0, stepNo := 0 }) ∧
    exec .deinit s = .next { s with op := .deinit, row := 0, stepNo := 0 } ∧
    (∀ len, exec (.display len) s = .next { s with lenR := len, op := .display, row := 0, stepNo := 0 })

/-- R140: while OP is not IDLE or FAULT is 1 a request is neither taken nor lost. No request has an effect, and a step
leaves the host's requests as they are; when the block is idle again the waiting one is accepted. That a request which
waits leaves the state as it is, and that the host's requests are a list, is the model's form (log 7, log 10). So is,
where the reset is asserted, that a waiting request survives the block reset (DESIGN CHOICE, log 5). -/
def Obligations.RequestsWaitUntilTheBlockIsIdle : Prop :=
  ∀ s : State,
    (s.op ≠ .idle ∨ s.fault = true →
      (∀ i ∈ ([.nop, .deinit] : List Instr), exec i s = .next s) ∧
      (∀ cfg, exec (.init cfg) s = .next s) ∧ (∀ len, exec (.display len) s = .next s) ∧
      (∀ t, step s = .next t → t.host = s.host)) ∧
    (∀ w rest, s.op = .idle → s.fault = false → s.rstIn = false → s.host = w :: rest →
      ∃ t, step s = .next t ∧ t.host = rest ∧ t.trace = s.trace ∧ (w.op = Op.code t.op))

/-- R140, R142, R211: a request presented while an operation runs, or while another waits, does not change what the
next step does; it only waits behind (the list of waiting requests is the model's form, DESIGN CHOICE, log 7). Where
the reset is asserted the step is the block reset, and that the requests survive it is the model's choice too (DESIGN
CHOICE, log 5). -/
def Obligations.PresentingARequestDisturbsNothing : Prop :=
  ∀ (s t : State) (w : ReqWord), s.op ≠ .idle ∨ s.fault = true ∨ s.host ≠ [] → step s = .next t →
    step (s.present w) = .next (t.present w)

/-! ### The steps of the operations -/

/-- R145, with RES_ASSERT at its default 0: the four events of the reset pulse, from any levels of the lines, in INIT
and in DEINIT alike, the delays ending where the timer answers (R65). For any RES_ASSERT: no other event of any
operation is a reset-line write or a delay. And the pulse with the default parameters. -/
def Obligations.ResetPulseDrivesTheLineLowThenHigh : Prop :=
  (∀ s : State, s.par.resAssert = false → s.rstIn = false → s.fault = false → s.op = .init ∨ s.op = .deinit →
    (s.stepNo = 0 → ∃ t, step s = .next t ∧ t.trace = s.trace ++ [.res false] ∧ t.res = false ∧ t.stepNo = 1) ∧
    (s.stepNo = 1 → s.env.timer = true → ∃ t, step s = .next t ∧ t.trace = s.trace ++ [.dly s.par.tResetMs] ∧
      t.res = s.res ∧ t.stepNo = 2) ∧
    (s.stepNo = 2 → ∃ t, step s = .next t ∧ t.trace = s.trace ++ [.res true] ∧ t.res = true ∧ t.stepNo = 3) ∧
    (s.stepNo = 3 → s.env.timer = true → ∃ t, step s = .next t ∧ t.trace = s.trace ++ [.dly s.par.tResetMs] ∧
      t.res = s.res ∧ t.stepNo = 4)) ∧
  (∀ (p : Params) (cfg : Cfg) (fb : Nat → Byte) (e : Event),
    e ∈ (initList p cfg).drop 4 ∨ e ∈ (deinitList p).drop 4 ∨ e ∈ displayList p fb → ∃ m b, e = .tx m b) ∧
  (∀ p : Params, p.resAssert = false → resetPulse p = [.res false, .dly p.tResetMs, .res true, .dly p.tResetMs]) ∧
  resetPulse Params.default = [.res false, .dly 200, .res true, .dly 200]

/-- R148 and R149, for every table, with a transport and a timer that answer: the step of INIT at STEP = n performs
event n of InitList of the latched CFG; LIFE becomes CONFIG at n = 3; DC is COMMAND from step 4 on; the last step sets
INITIALIZED and LIFE and ends the operation. For another RES_ASSERT than 0 the two line events of the list are the
model's reading (DEDUCED, log 15). -/
def Obligations.InitStepPerformsItsEvent : Prop :=
  ∀ s : State, s.rstIn = false → s.fault = false → s.op = .init → s.stepNo < s.par.initLen →
    s.env.transport = true → s.env.timer = true →
    ∃ t e, step s = .next t ∧ (initList s.par s.cfg)[s.stepNo]? = some e ∧ t.trace = s.trace ++ [e] ∧
      (4 ≤ s.stepNo → t.dc = .command) ∧
      (s.stepNo + 1 < s.par.initLen →
        t.op = .init ∧ t.row = s.row ∧ t.stepNo = s.stepNo + 1 ∧ t.initialized = s.initialized ∧
        t.life = if s.stepNo = 3 then .config else s.life) ∧
      (s.stepNo + 1 = s.par.initLen →
        e = .tx .command (enc1 s.par.table .dispOn 0) ∧
        t.op = .idle ∧ t.row = 0 ∧ t.stepNo = 0 ∧ t.busy = false ∧ t.initialized = true ∧ t.life = .on)

/-- R151, with a transport and a timer that answer: the step of DEINIT at STEP = n; LIFE and INITIALIZED keep their
values until the last step writes both. For another RES_ASSERT than 0 the two line events of the list are the model's
reading (DEDUCED, log 15). -/
def Obligations.DeinitStepPerformsItsEvent : Prop :=
  ∀ s : State, s.rstIn = false → s.fault = false → s.op = .deinit → s.stepNo < 5 →
    s.env.transport = true → s.env.timer = true →
    ∃ t e, step s = .next t ∧ (deinitList s.par)[s.stepNo]? = some e ∧ t.trace = s.trace ++ [e] ∧
      (s.stepNo < 4 → t.op = .deinit ∧ t.row = s.row ∧ t.stepNo = s.stepNo + 1 ∧ t.initialized = s.initialized ∧
        t.life = s.life) ∧
      (s.stepNo = 4 → t.op = .idle ∧ t.row = 0 ∧ t.stepNo = 0 ∧ t.initialized = false ∧ t.life = .deinit)

/-- R153: the three addressing slots of row j, for every well-formed table and, with the default table, the bytes R153
gives, the transport answering. The row index goes out unchanged (R161), low nibble first. -/
def Obligations.AddressingSlotsSendTheRow : Prop :=
  ∀ s : State, s.par.wf = true → s.rstIn = false → s.fault = false → s.op = .display → s.row.toNat < s.par.height →
    s.stepNo ≤ 2 → s.env.transport = true →
    ∃ t b, step s = .next t ∧ t.trace = s.trace ++ [.tx .command b] ∧ t.dc = .command ∧
      t.op = .display ∧ t.row = s.row ∧ t.stepNo = s.stepNo + 1 ∧
      (s.stepNo = 0 → b = s.par.table.setPage.tag) ∧
      (s.stepNo = 1 → b = s.par.table.setLowCol.tag ||| ((s.row &&& 0x0F) &&& s.par.table.setLowCol.mask)) ∧
      (s.stepNo = 2 → b = s.par.table.setHighCol.tag ||| ((s.row >>> 4) &&& s.par.table.setHighCol.mask)) ∧
      (s.par.table = Table.default → s.stepNo = 0 → b = 0xB0) ∧
      (s.par.table = Table.default → s.stepNo = 1 → b = 0x00 ||| (s.row &&& 0x0F)) ∧
      (s.par.table = Table.default → s.stepNo = 2 → b = 0x10 ||| (s.row >>> 4))

/-- R154 and the advance of R155: a data slot whose offset is not inside the buffer raises and changes nothing else;
any other, the frame-buffer port and the transport answering, reads the byte at i + j * WB at this very step, sends its
reversal in DATA mode, and advances. A slot whose byte was read in an earlier step and waits at the transport
(20_memory.md R61, R65) sends that byte, whatever the port does: that is the model's choice (DESIGN CHOICE and DEDUCED,
log 23). -/
def Obligations.DataSlotSendsTheReversedByteOrRaises : Prop :=
  ∀ (s : State) (i off : Nat), s.rstIn = false → s.fault = false → s.op = .display → s.row.toNat < s.par.height →
    s.stepNo = 3 + i → i < s.par.wb → off = i + s.row.toNat * s.par.wb →
    (s.lenR ≤ off → step s = .next { s with fault := true, fCode := .fbOutOfBounds, fInfo := off }) ∧
    (off < s.lenR → s.env.fbPort = true ∨ s.handed ≠ none → s.env.transport = true →
      ∃ t b, step s = .next t ∧ t.trace = s.trace ++ [.tx .data b] ∧ t.dc = .data ∧
      (s.handed = none → b = rev8 (s.fb.read off)) ∧ (∀ d, s.handed = some d → b = d) ∧
      (i + 1 < s.par.wb → t.op = .display ∧ t.row = s.row ∧ t.stepNo = s.stepNo + 1) ∧
      (i + 1 = s.par.wb → s.row.toNat + 1 < s.par.height → t.op = .display ∧ t.row = s.row + 1 ∧ t.stepNo = 0) ∧
      (i + 1 = s.par.wb → s.row.toNat + 1 = s.par.height → t.op = .idle ∧ t.row = 0 ∧ t.stepNo = 0))

/-- 20_memory.md R52, R63: a store by the host before a data slot's step is what that step sends, where it stores to
the slot's offset, and makes no difference to it anywhere else. A byte that has been read and waits at the transport is
no later read: no store changes it (R61, R63; DESIGN CHOICE and DEDUCED, log 23). -/
def Obligations.HostStoreIsSeenByTheNextRead : Prop :=
  ∀ (s : State) (off slotOff : Nat) (b : Byte), s.fb.wf = true → s.rstIn = false → s.fault = false → s.op = .display →
    s.row.toNat < s.par.height → 3 ≤ s.stepNo → s.stepNo ≤ s.par.wb + 2 →
    slotOff = s.stepNo - 3 + s.row.toNat * s.par.wb → slotOff < s.lenR →
    s.env.fbPort = true ∨ s.handed ≠ none → s.env.transport = true →
    ∃ t, step (s.storeFb off b) = .next t ∧
      (s.handed = none →
        t.trace = s.trace ++ [.tx .data (rev8 (if slotOff = off then b else s.fb.read slotOff))]) ∧
      (∀ d, s.handed = some d → t.trace = s.trace ++ [.tx .data d]) ∧
      ∀ a, t.fb.read a = if a = off then b else s.fb.read a

/-! ### The whole operations -/

/-- R147: InitList with the default table, event by event; and the length of every InitList. For another RES_ASSERT
than 0 the two line events are the model's reading (DEDUCED, log 15). -/
def Obligations.InitListEventByEvent : Prop :=
  (∀ (p : Params) (c : Cfg), p.table = Table.default →
    initList p c =
      [.res p.resAssert, .dly p.tResetMs, .res (!p.resAssert), .dly p.tResetMs, .tx .command 0xAE,
       .tx .command (0x00 ||| (c.lowCol &&& 0x0F)), .tx .command (0x10 ||| (c.highCol &&& 0x0F)),
       .tx .command (0xB0 ||| (c.page &&& 0x0F)), .tx .command 0xDC, .tx .command c.startLine,
       .tx .command 0x81, .tx .command c.contrast, .tx .command (0xA6 ||| (c.polarity &&& 0x01)),
       .tx .command 0xA8, .tx .command c.mux, .tx .command 0xD3, .tx .command c.offset,
       .tx .command 0xD5, .tx .command c.clock, .tx .command 0xD9, .tx .command c.charge,
       .tx .command 0xDB, .tx .command c.vcom, .tx .command 0xAD, .tx .command c.dcdc, .tx .command 0xAF] ∧
    p.initLen = 26) ∧
  (∀ (p : Params) (c : Cfg), (initList p c).length = p.initLen)

/-- R155, the trace of a DISPLAY: its length, its number of COMMAND bytes, and that its DATA bytes, reversed again, are
the buffer's first FRAME_BYTES bytes in order. -/
def Obligations.DisplayListShape : Prop :=
  ∀ (p : Params) (fb : Nat → Byte),
    (displayList p fb).length = p.height * (3 + p.wb) ∧
    ((displayList p fb).filter fun e => match e with | .tx .command _ => true | _ => false).length = 3 * p.height ∧
    ((displayList p fb).filterMap fun e => match e with | .tx .data b => some (rev8 b) | _ => none) =
      (List.range p.frameBytes).map fb

/-- R146, R163, R156, R165 for INIT: from acceptance, whatever the lifecycle, with an environment that answers (R65),
INIT_LEN steps append exactly InitList(cfg) to the trace and end idle, initialized and ON; before that the block is
busy in INIT all the time. RES ends at the level other than RES_ASSERT: 1, as the rule says, for the default; for
another RES_ASSERT this and the pulse are the model's reading (DEDUCED, log 15). -/
def Obligations.InitRunsItsWholeList : Prop :=
  ∀ (s : State) (cfg : Cfg), s.op = .idle → s.fault = false → s.rstIn = false →
    s.env.transport = true → s.env.timer = true →
    ∃ a, exec (.init cfg) s = .next a ∧
      (∀ k < s.par.initLen, ∃ u, State.afterSteps k a = some u ∧ u.op = .init ∧ u.stepNo = k ∧
        u.trace = s.trace ++ (initList s.par cfg).take k) ∧
      State.afterSteps s.par.initLen a =
        some { s with cfg := cfg, row := 0, stepNo := 0, life := .on, initialized := true, dc := .command,
                      res := !s.par.resAssert, handed := none, trace := s.trace ++ initList s.par cfg }

/-- R150, R163, R156 for DEINIT: from acceptance, whatever the lifecycle, with an environment that answers (R65), five
steps append DeinitList and end idle with INITIALIZED 0 and LIFE DEINIT. Double teardown (R158) is two of these. RES
ends at the level other than RES_ASSERT: 1, as the rule says, for the default; for another RES_ASSERT this and the
pulse are the model's reading (DEDUCED, log 15). -/
def Obligations.DeinitRunsItsWholeList : Prop :=
  ∀ s : State, s.op = .idle → s.fault = false → s.rstIn = false → s.env.transport = true → s.env.timer = true →
    ∃ a, exec .deinit s = .next a ∧
      (∀ k < 5, ∃ u, State.afterSteps k a = some u ∧ u.op = .deinit ∧ u.stepNo = k ∧ u.life = s.life ∧
        u.initialized = s.initialized ∧ u.trace = s.trace ++ (deinitList s.par).take k) ∧
      State.afterSteps 5 a =
        some { s with row := 0, stepNo := 0, life := .deinit, initialized := false, dc := .command,
                      res := !s.par.resAssert, handed := none, trace := s.trace ++ deinitList s.par }

/-- R152, R163, R156, R162 for DISPLAY: with a buffer that covers the frame and an environment that answers (R65),
HEIGHT * (3 + WB) steps append exactly DisplayList of the buffer's contents and end idle; LIFE, INITIALIZED, RES, CFG
and the buffer are untouched, whatever the lifecycle (R157). -/
def Obligations.DisplayRunsTheWholeFrame : Prop :=
  ∀ (s : State) (len : Nat), s.par.wf = true → s.op = .idle → s.fault = false → s.rstIn = false →
    s.par.frameBytes ≤ len → s.env.fbPort = true → s.env.transport = true →
    ∃ a, exec (.display len) s = .next a ∧
      (∀ k < s.par.height * (3 + s.par.wb), ∃ u, State.afterSteps k a = some u ∧ u.op = .display ∧
        u.row.toNat = k / (3 + s.par.wb) ∧ u.stepNo = k % (3 + s.par.wb) ∧
        u.trace = s.trace ++ (displayList s.par s.fb.read).take k) ∧
      State.afterSteps (s.par.height * (3 + s.par.wb)) a =
        some { s with lenR := len, row := 0, stepNo := 0, dc := .data, handed := none,
                      trace := s.trace ++ displayList s.par s.fb.read }

/-- 60_exceptions.md R181: with a buffer shorter than the frame and an environment that answers, the operation performs
every event before the slot whose offset is the length, at row len / WB and column len % WB, and there faults with
FINFO = len. -/
def Obligations.ShortBufferFaultsAtItsEnd : Prop :=
  ∀ (s : State) (len n : Nat), s.par.wf = true → s.op = .idle → s.fault = false → s.rstIn = false →
    len < s.par.frameBytes → n = len / s.par.wb * (3 + s.par.wb) + (3 + len % s.par.wb) →
    s.env.fbPort = true → s.env.transport = true →
    ∃ a t, exec (.display len) s = .next a ∧ State.afterSteps (n + 1) a = some t ∧
      t.fault = true ∧ t.fCode = .fbOutOfBounds ∧ t.fInfo = len ∧ t.op = .display ∧
      t.row.toNat = len / s.par.wb ∧ t.stepNo = 3 + len % s.par.wb ∧
      t.trace = s.trace ++ (displayList s.par s.fb.read).take n ∧
      t.life = s.life ∧ t.initialized = s.initialized

/-! ### The machine as a whole -/

/-- R183: while FAULT is 1 the block takes no step and accepts no request, and BUSY stays 1; only the block reset clears
it. In every state of the invariant. That a block without a step answers the same state is the model's choice (DESIGN
CHOICE, log 6). -/
def Obligations.FaultedBlockStaysUntilReset : Prop :=
  ∀ s : State, s.Inv → s.fault = true →
    (s.rstIn = false → step s = .next s) ∧
    (∀ i ∈ ([.nop, .deinit] : List Instr), exec i s = .next s) ∧
    (∀ cfg, exec (.init cfg) s = .next s) ∧ (∀ len, exec (.display len) s = .next s) ∧
    s.statusWord.getLsbD 0 = true ∧ s.statusWord.getLsbD 5 = true ∧
    s.statusWord.getLsbD 6 = true ∧ s.statusWord.getLsbD 7 = false ∧
    (s.rstIn = true → ∃ t, step s = .next t ∧ t.fault = false)

/-- 70_reset_and_hazards.md R200 and 60_exceptions.md R186: an asserted block reset wins over everything, and leaves
the values R200 states; the trace starts empty and the frame buffer is not the block's to clear. That one step stands
for assertion and release is the model's choice (DESIGN CHOICE, log 5), and so is, for another RES_ASSERT than 0, that
RES is at the level that does not hold the controller in reset (DEDUCED, log 15). A byte that waits at the transport is
abandoned with its event (DESIGN CHOICE, log 23). -/
def Obligations.BlockResetWinsOverEverything : Prop :=
  ∀ s : State, s.rstIn = true →
    ∃ t, step s = .next t ∧ t.op = .idle ∧ t.row = 0 ∧ t.stepNo = 0 ∧ t.life = .uninit ∧ t.initialized = false ∧
      t.fault = false ∧ t.fCode = .none ∧ t.dc = .command ∧ t.res = (!s.par.resAssert) ∧
      (s.par.resAssert = false → t.res = true) ∧ t.trace = [] ∧ t.handed = none ∧ t.env = s.env ∧ t.par = s.par ∧
      ∀ a, t.fb.read a = s.fb.read a

/-- R200 of the state the model starts in. -/
def Obligations.ResetStateHasTheSpecifiedValues : Prop :=
  State.reset.op = .idle ∧ State.reset.row = 0 ∧ State.reset.stepNo = 0 ∧ State.reset.life = .uninit ∧
  State.reset.initialized = false ∧ State.reset.fault = false ∧ State.reset.fCode = .none ∧
  State.reset.dc = .command ∧ State.reset.res = true ∧ State.reset.trace = [] ∧ State.reset.statusWord = 0x00

/-- The invariant holds after reset. -/
def Obligations.InvariantHoldsAtReset : Prop := State.reset.Inv

/-- 10_state.md R35, and the widths of STEP, LENR and FINFO, and the reset line, the fault registers, the canonical
memory and the byte at the transport: every step keeps the invariant. That the reset line is held at RES_ASSERT is, for
another RES_ASSERT than 0, the model's reading (DEDUCED, log 15), and a byte stands at the transport only in a data
slot's event (DESIGN CHOICE, log 23). -/
def Obligations.EveryStepKeepsTheInvariant : Prop :=
  ∀ s t : State, s.Inv → step s = .next t → t.Inv

/-- Every act of the host and of the environment keeps the invariant, given that a request it presents fits its fields.
-/
def Obligations.HostActsKeepTheInvariant : Prop :=
  ∀ (s : State) (a : HostAct), s.Inv → (∀ w, a = .present w → w.wf s.par = true) → (a.apply s).Inv

/-- In every state of the invariant the machine goes on, be it waiting for the environment: no instruction and no step
is refused, and the position always names an event. -/
def Obligations.MachineNeverStops : Prop :=
  ∀ s : State, s.Inv → s.goesOn

/-- 60_exceptions.md R181, 70_reset_and_hazards.md R207: while the host hands over buffers that cover the frame, FAULT
stays 0, whatever else the host and the environment do. -/
def Obligations.CoveringBuffersNeverFault : Prop :=
  ∀ s t : State, s.Contract →
    (step s = .next t → t.Contract) ∧
    (∀ a : HostAct, (∀ w, a = .present w → ReqWord.coversFrame s.par w) → (a.apply s).Contract)

/-- 00_scope.md R6, R8, R13 and 10_state.md R32: no step changes a parameter, a byte of the frame buffer or what the
environment does. -/
def Obligations.StepsNeverWriteMemoryOrParameters : Prop :=
  ∀ s t : State, step s = .next t → t.par = s.par ∧ t.env = s.env ∧ ∀ a, t.fb.read a = s.fb.read a

/-- 10_state.md R21, the writing: apart from block reset, CFG is written only by the acceptance of an INIT, which loads
all twelve registers from REQ_CFG; LENR only by the acceptance of a DISPLAY (R31). -/
def Obligations.ConfigurationIsWrittenOnlyByInit : Prop :=
  ∀ s t : State, s.rstIn = false → step s = .next t →
    (t.cfg ≠ s.cfg → s.op = .idle ∧ s.fault = false ∧
      ∃ w rest, s.host = w :: rest ∧ w.op = 1 ∧ t.cfg = unpackCfg w.cfg) ∧
    (t.lenR ≠ s.lenR → s.op = .idle ∧ s.fault = false ∧
      ∃ w rest, s.host = w :: rest ∧ w.op = 3 ∧ t.lenR = w.len)

/-- R29: the transitions of LIFE, complete; a busy block that waits for the environment, or faults, performs no event
and leaves LIFE as it is; its encoding; and its value after a block reset. -/
def Obligations.LifeTransitionsAreComplete : Prop :=
  (∀ s t : State, s.rstIn = false → step s = .next t →
    t.life =
      if s.fault = true ∨ (s.op ≠ .idle ∧ t.trace = s.trace) then s.life
      else match s.op with
        | .idle => if (s.host.head?.map fun w => w.op) = some 1 then .resetting else s.life
        | .init => if s.stepNo = 3 then .config else if s.stepNo + 1 = s.par.initLen then .on else s.life
        | .deinit => if s.stepNo = 4 then .deinit else s.life
        | .display => s.life) ∧
  (∀ s t : State, s.rstIn = true → step s = .next t → t.life = .uninit) ∧ State.reset.life = .uninit ∧
  Life.code .uninit = 0 ∧ Life.code .resetting = 1 ∧ Life.code .config = 2 ∧ Life.code .on = 3 ∧ Life.code .deinit = 4

/-- R24: apart from block reset, INITIALIZED is set by the last step of INIT, cleared by the last step of DEINIT, where
these perform their event, and written by nothing else. -/
def Obligations.InitializedIsWrittenByLastStepsOnly : Prop :=
  ∀ s t : State, s.rstIn = false → step s = .next t →
    t.initialized =
      if t.trace ≠ s.trace ∧ s.op = .init ∧ s.stepNo + 1 = s.par.initLen then true
      else if t.trace ≠ s.trace ∧ s.op = .deinit ∧ s.stepNo = 4 then false
      else s.initialized

/-- R25 and R26: RES is written only by `Res` events and DC by every `Tx` event and nothing else; the mode-select line
shows the mode of the byte just sent, or of the byte that the transport has not yet taken. -/
def Obligations.LinesFollowTheirEvents : Prop :=
  ∀ s t : State, s.rstIn = false → step s = .next t →
    (t.trace = s.trace ∧ t.res = s.res ∧ t.dc = s.dc) ∨
    (∃ l, t.trace = s.trace ++ [.res l] ∧ t.res = l ∧ t.resLine = l ∧ t.dc = s.dc) ∨
    (∃ ms, t.trace = s.trace ++ [.dly ms] ∧ t.res = s.res ∧ t.dc = s.dc) ∨
    (∃ b, t.trace = s.trace ++ [.tx .command b] ∧ t.dc = .command ∧ t.dcLine = s.par.dcCommandLevel ∧ t.res = s.res) ∨
    (∃ b, t.trace = s.trace ++ [.tx .data b] ∧ t.dc = .data ∧ t.dcLine = s.par.dcDataLevel ∧ t.res = s.res) ∨
    (∃ m b, s.nextEvent = some (.tx m b) ∧ s.env.transport = false ∧ t = { s with dc := m, handed := t.handed } ∧
      (t.handed = s.handed ∨ m = .data ∧ t.handed = some b))

/-- 00_scope.md R9, R13, 60_exceptions.md R186: a step of a busy, unfaulted block performs exactly one event or raises
the one fault, never both, or it waits for an environment that does not answer, which changes at most DC and the byte
that stands at the transport (20_memory.md R65; DESIGN CHOICE and DEDUCED, log 23); any other step performs none. -/
def Obligations.OneEventOrOneFaultPerStep : Prop :=
  ∀ s t : State, s.rstIn = false → step s = .next t →
    (s.op ≠ .idle → s.fault = false →
      ((∃ e, t.trace = s.trace ++ [e]) ∧ t.fault = false) ∨ (t.trace = s.trace ∧ t.fault = true) ∨
      (s.Waiting ∧ t = { s with dc := t.dc, handed := t.handed })) ∧
    (s.env = .answering → ¬ s.Waiting) ∧
    (s.op = .idle ∨ s.fault = true → t.trace = s.trace ∧ t.fault = s.fault)

/-- R30: the status word, bit by bit. -/
def Obligations.StatusWordShowsItsFields : Prop :=
  ∀ s : State,
    s.statusWord.getLsbD 0 = decide (s.op ≠ .idle) ∧
    s.statusWord.getLsbD 1 = s.initialized ∧
    s.statusWord.extractLsb' 2 3 = Life.code s.life ∧
    s.statusWord.getLsbD 5 = s.fault ∧
    s.statusWord.extractLsb' 6 2 = FCode.code s.fCode ∧
    Life.code .uninit = 0 ∧ Life.code .resetting = 1 ∧ Life.code .config = 2 ∧ Life.code .on = 3 ∧
    Life.code .deinit = 4 ∧ FCode.code .none = 0 ∧ FCode.code .fbOutOfBounds = 1

/-- R157: no guards. Two blocks that differ only in LIFE and INITIALIZED do the same for ever: after any number of steps
they still differ in nothing else. -/
def Obligations.LifecycleGuardsNothing : Prop :=
  ∀ (k : Nat) (s t : State) (l : Life) (b : Bool), State.afterSteps k s = some t →
    ∃ l' b', State.afterSteps k { s with life := l, initialized := b } = some { t with life := l', initialized := b' }

/-- 70_reset_and_hazards.md R201: from an idle, unfaulted block, what CFG, LENR and FINFO hold makes no difference to
any trace, to the position, to the lines or to the status word, after any number of steps. -/
def Obligations.UnspecifiedValuesAreNeverSeen : Prop :=
  ∀ (k : Nat) (s t : State) (cfg : Cfg) (len info : Nat), s.op = .idle → s.fault = false →
    State.afterSteps k s = some t →
    ∃ t', State.afterSteps k { s with cfg := cfg, lenR := len, fInfo := info } = some t' ∧
      t'.trace = t.trace ∧ t'.op = t.op ∧ t'.row = t.row ∧ t'.stepNo = t.stepNo ∧ t'.res = t.res ∧ t'.dc = t.dc ∧
      t'.statusWord = t.statusWord

/-- 30_encoding.md R79: the expansions of the pseudo-operations, with the default table where bytes are given. R79
gives RESETPULSE for RES_ASSERT = 0; for 1 its two line events are the model's reading (DEDUCED, log 15). -/
def Obligations.PseudoOperationsExpand : Prop :=
  ∀ (p : Params) (fb : Nat → Byte), p.table = Table.default →
    Pseudo.resetPulse.expand p fb = [.res p.resAssert, .dly p.tResetMs, .res (!p.resAssert), .dly p.tResetMs] ∧
    (∀ c v, (Pseudo.write c v).expand p fb = encSeq p.table c v) ∧
    (∀ j < 256, (Pseudo.rowAddr j).expand p fb =
      [.tx .command 0xB0, .tx .command (0x00 ||| (BitVec.ofNat 8 j &&& 0x0F)),
       .tx .command (0x10 ||| (BitVec.ofNat 8 j >>> 4))]) ∧
    (∀ j, (Pseudo.rowData j).expand p fb = (List.range p.wb).map fun i => .tx .data (rev8 (fb (j * p.wb + i))))

/-! ### The other reset level, and an environment that does not answer -/

/-- 00_scope.md R6: RES_ASSERT is a parameter. For every value of it the pulse holds the controller in reset from its
first event to its third: the line goes to RES_ASSERT, waits, goes to the other level and waits, whatever it showed
before. What R145 means for another value than 0 is the model's reading (DEDUCED, log 15). -/
def Obligations.ResetPulseFollowsResAssert : Prop :=
  ∀ s : State, s.rstIn = false → s.fault = false → s.op = .init ∨ s.op = .deinit → s.stepNo = 0 → s.env.timer = true →
    ∃ t₁ t₂ t₃ t₄,
      State.afterSteps 1 s = some t₁ ∧ t₁.res = s.par.resAssert ∧
      State.afterSteps 2 s = some t₂ ∧ t₂.res = s.par.resAssert ∧
      State.afterSteps 3 s = some t₃ ∧ t₃.res = (!s.par.resAssert) ∧
      State.afterSteps 4 s = some t₄ ∧ t₄.res = (!s.par.resAssert) ∧ t₄.op = s.op ∧ t₄.stepNo = 4 ∧
      t₄.trace = s.trace ++
        [.res s.par.resAssert, .dly s.par.tResetMs, .res (!s.par.resAssert), .dly s.par.tResetMs]

/-- 20_memory.md R65: while the environment does not answer, the block waits in the middle of the event. A delay that
does not end changes nothing; a byte that the transport does not take leaves the mode-select line at its mode (R55),
and a data byte, which has been read by then (R61), stays at the transport (DESIGN CHOICE, log 23); a read that the
port does not answer changes nothing. Nothing is performed, the position keeps naming the event, BUSY stays 1, FAULT
stays 0 (60_exceptions.md R184 f), for as many steps as one likes. What DC shows meanwhile is DEDUCED (log 11). -/
def Obligations.SilentEnvironmentHoldsTheBlock : Prop :=
  (∀ s : State, s.rstIn = false → s.fault = false →
    (s.op = .init ∨ s.op = .deinit → s.stepNo = 1 ∨ s.stepNo = 3 → s.env.timer = false → s.Waiting ∧ step s = .next s) ∧
    ((s.op = .init ∧ 4 ≤ s.stepNo ∧ s.stepNo < s.par.initLen) ∨ (s.op = .deinit ∧ s.stepNo = 4) ∨
      (s.op = .display ∧ s.row.toNat < s.par.height ∧ s.stepNo ≤ 2) → s.env.transport = false →
      s.Waiting ∧ step s = .next { s with dc := .command }) ∧
    (s.op = .display → s.row.toNat < s.par.height → 3 ≤ s.stepNo → s.stepNo ≤ s.par.wb + 2 → s.dataOffset < s.lenR →
      (s.handed = none → s.env.fbPort = false → s.Waiting ∧ step s = .next s) ∧
      (s.handed = none → s.env.fbPort = true → s.env.transport = false →
        s.Waiting ∧ step s = .next { s with dc := .data, handed := some (rev8 (s.fb.read s.dataOffset)) }) ∧
      (s.handed ≠ none → s.env.transport = false → s.Waiting ∧ step s = .next { s with dc := .data }))) ∧
  ∀ (k : Nat) (s : State), s.Waiting →
    ∃ t, State.afterSteps k s = some t ∧ t.Waiting ∧ t = { s with dc := t.dc, handed := t.handed } ∧ t.busy = true

/-- 20_memory.md R65, 42_sequencer.md R144: waiting is the environment's time and no more. Once the environment answers,
the block performs the event as if it had never waited. -/
def Obligations.WaitingLosesNothing : Prop :=
  ∀ (k : Nat) (s t : State), s.Waiting → State.afterSteps k s = some t →
    ∃ u e, step (t.setEnv .answering) = .next u ∧ step (s.setEnv .answering) = .next u ∧
      s.nextEvent = some e ∧ u.trace = s.trace ++ [e]

/-- 20_memory.md R51, R61, 42_sequencer.md R144: the one MemRead of a data slot is before its byte is handed over.
Where the port answers and the transport does not take the byte, the byte read stays at the transport: whatever the
host stores meanwhile and whether or not the port answers again, it still waits, and it is what is sent when the
transport takes it. That the byte stands in State meanwhile is the model's form (DESIGN CHOICE, log 23). -/
def Obligations.DataByteIsReadOnceBeforeHandOver : Prop :=
  ∀ (s : State), s.rstIn = false → s.fault = false → s.op = .display → s.row.toNat < s.par.height → 3 ≤ s.stepNo →
    s.stepNo ≤ s.par.wb + 2 → s.dataOffset < s.lenR → s.handed = none → s.env.fbPort = true → s.env.transport = false →
    ∃ t, step s = .next t ∧ t.trace = s.trace ∧ t.handed = some (rev8 (s.fb.read s.dataOffset)) ∧
      ∀ (stores : List (Nat × Byte)) (e : Env),
        let u := (stores.foldl (fun v ob => v.storeFb ob.1 ob.2) t).setEnv e
        (e.transport = false → step u = .next u) ∧
        (e.transport = true → ∃ v, step u = .next v ∧ v.handed = none ∧
          v.trace = s.trace ++ [.tx .data (rev8 (s.fb.read s.dataOffset))])
end

