-- ==== Sys2Proof/Laws/State.lean ====
section
/-! SUPPORT. One lemma per field of State and named update: what the update leaves in the field. -/

namespace Sys2Proof.Machine

variable (s : State)

/-! ### setInitialized -/

@[simp] theorem State.setInitialized_cfg (b : Bool) : (State.setInitialized b s).cfg = s.cfg := rfl
@[simp] theorem State.setInitialized_op (b : Bool) : (State.setInitialized b s).op = s.op := rfl
@[simp] theorem State.setInitialized_row (b : Bool) : (State.setInitialized b s).row = s.row := rfl
@[simp] theorem State.setInitialized_stepNo (b : Bool) : (State.setInitialized b s).stepNo = s.stepNo := rfl
@[simp] theorem State.setInitialized_lenR (b : Bool) : (State.setInitialized b s).lenR = s.lenR := rfl
@[simp] theorem State.setInitialized_life (b : Bool) : (State.setInitialized b s).life = s.life := rfl
@[simp] theorem State.setInitialized_initialized (b : Bool) : (State.setInitialized b s).initialized = b := rfl
@[simp] theorem State.setInitialized_dc (b : Bool) : (State.setInitialized b s).dc = s.dc := rfl
@[simp] theorem State.setInitialized_res (b : Bool) : (State.setInitialized b s).res = s.res := rfl
@[simp] theorem State.setInitialized_fault (b : Bool) : (State.setInitialized b s).fault = s.fault := rfl
@[simp] theorem State.setInitialized_fCode (b : Bool) : (State.setInitialized b s).fCode = s.fCode := rfl
@[simp] theorem State.setInitialized_fInfo (b : Bool) : (State.setInitialized b s).fInfo = s.fInfo := rfl
@[simp] theorem State.setInitialized_fb (b : Bool) : (State.setInitialized b s).fb = s.fb := rfl
@[simp] theorem State.setInitialized_host (b : Bool) : (State.setInitialized b s).host = s.host := rfl
@[simp] theorem State.setInitialized_rstIn (b : Bool) : (State.setInitialized b s).rstIn = s.rstIn := rfl
@[simp] theorem State.setInitialized_trace (b : Bool) : (State.setInitialized b s).trace = s.trace := rfl
@[simp] theorem State.setInitialized_par (b : Bool) : (State.setInitialized b s).par = s.par := rfl
@[simp] theorem State.setInitialized_freeIx (b : Bool) : (State.setInitialized b s).freeIx = s.freeIx := rfl
@[simp] theorem State.setInitialized_env (b : Bool) : (State.setInitialized b s).env = s.env := rfl
@[simp] theorem State.setInitialized_handed (b : Bool) : (State.setInitialized b s).handed = s.handed := rfl

/-! ### setDc -/

@[simp] theorem State.setDc_cfg (m : Mode) : (State.setDc m s).cfg = s.cfg := rfl
@[simp] theorem State.setDc_op (m : Mode) : (State.setDc m s).op = s.op := rfl
@[simp] theorem State.setDc_row (m : Mode) : (State.setDc m s).row = s.row := rfl
@[simp] theorem State.setDc_stepNo (m : Mode) : (State.setDc m s).stepNo = s.stepNo := rfl
@[simp] theorem State.setDc_lenR (m : Mode) : (State.setDc m s).lenR = s.lenR := rfl
@[simp] theorem State.setDc_life (m : Mode) : (State.setDc m s).life = s.life := rfl
@[simp] theorem State.setDc_initialized (m : Mode) : (State.setDc m s).initialized = s.initialized := rfl
@[simp] theorem State.setDc_dc (m : Mode) : (State.setDc m s).dc = m := rfl
@[simp] theorem State.setDc_res (m : Mode) : (State.setDc m s).res = s.res := rfl
@[simp] theorem State.setDc_fault (m : Mode) : (State.setDc m s).fault = s.fault := rfl
@[simp] theorem State.setDc_fCode (m : Mode) : (State.setDc m s).fCode = s.fCode := rfl
@[simp] theorem State.setDc_fInfo (m : Mode) : (State.setDc m s).fInfo = s.fInfo := rfl
@[simp] theorem State.setDc_fb (m : Mode) : (State.setDc m s).fb = s.fb := rfl
@[simp] theorem State.setDc_host (m : Mode) : (State.setDc m s).host = s.host := rfl
@[simp] theorem State.setDc_rstIn (m : Mode) : (State.setDc m s).rstIn = s.rstIn := rfl
@[simp] theorem State.setDc_trace (m : Mode) : (State.setDc m s).trace = s.trace := rfl
@[simp] theorem State.setDc_par (m : Mode) : (State.setDc m s).par = s.par := rfl
@[simp] theorem State.setDc_freeIx (m : Mode) : (State.setDc m s).freeIx = s.freeIx := rfl
@[simp] theorem State.setDc_env (m : Mode) : (State.setDc m s).env = s.env := rfl
@[simp] theorem State.setDc_handed (m : Mode) : (State.setDc m s).handed = s.handed := rfl

/-! ### setRes -/

@[simp] theorem State.setRes_cfg (l : Level) : (State.setRes l s).cfg = s.cfg := rfl
@[simp] theorem State.setRes_op (l : Level) : (State.setRes l s).op = s.op := rfl
@[simp] theorem State.setRes_row (l : Level) : (State.setRes l s).row = s.row := rfl
@[simp] theorem State.setRes_stepNo (l : Level) : (State.setRes l s).stepNo = s.stepNo := rfl
@[simp] theorem State.setRes_lenR (l : Level) : (State.setRes l s).lenR = s.lenR := rfl
@[simp] theorem State.setRes_life (l : Level) : (State.setRes l s).life = s.life := rfl
@[simp] theorem State.setRes_initialized (l : Level) : (State.setRes l s).initialized = s.initialized := rfl
@[simp] theorem State.setRes_dc (l : Level) : (State.setRes l s).dc = s.dc := rfl
@[simp] theorem State.setRes_res (l : Level) : (State.setRes l s).res = l := rfl
@[simp] theorem State.setRes_fault (l : Level) : (State.setRes l s).fault = s.fault := rfl
@[simp] theorem State.setRes_fCode (l : Level) : (State.setRes l s).fCode = s.fCode := rfl
@[simp] theorem State.setRes_fInfo (l : Level) : (State.setRes l s).fInfo = s.fInfo := rfl
@[simp] theorem State.setRes_fb (l : Level) : (State.setRes l s).fb = s.fb := rfl
@[simp] theorem State.setRes_host (l : Level) : (State.setRes l s).host = s.host := rfl
@[simp] theorem State.setRes_rstIn (l : Level) : (State.setRes l s).rstIn = s.rstIn := rfl
@[simp] theorem State.setRes_trace (l : Level) : (State.setRes l s).trace = s.trace := rfl
@[simp] theorem State.setRes_par (l : Level) : (State.setRes l s).par = s.par := rfl
@[simp] theorem State.setRes_freeIx (l : Level) : (State.setRes l s).freeIx = s.freeIx := rfl
@[simp] theorem State.setRes_env (l : Level) : (State.setRes l s).env = s.env := rfl
@[simp] theorem State.setRes_handed (l : Level) : (State.setRes l s).handed = s.handed := rfl

/-! ### setLife -/

@[simp] theorem State.setLife_cfg (l : Life) : (State.setLife l s).cfg = s.cfg := rfl
@[simp] theorem State.setLife_op (l : Life) : (State.setLife l s).op = s.op := rfl
@[simp] theorem State.setLife_row (l : Life) : (State.setLife l s).row = s.row := rfl
@[simp] theorem State.setLife_stepNo (l : Life) : (State.setLife l s).stepNo = s.stepNo := rfl
@[simp] theorem State.setLife_lenR (l : Life) : (State.setLife l s).lenR = s.lenR := rfl
@[simp] theorem State.setLife_life (l : Life) : (State.setLife l s).life = l := rfl
@[simp] theorem State.setLife_initialized (l : Life) : (State.setLife l s).initialized = s.initialized := rfl
@[simp] theorem State.setLife_dc (l : Life) : (State.setLife l s).dc = s.dc := rfl
@[simp] theorem State.setLife_res (l : Life) : (State.setLife l s).res = s.res := rfl
@[simp] theorem State.setLife_fault (l : Life) : (State.setLife l s).fault = s.fault := rfl
@[simp] theorem State.setLife_fCode (l : Life) : (State.setLife l s).fCode = s.fCode := rfl
@[simp] theorem State.setLife_fInfo (l : Life) : (State.setLife l s).fInfo = s.fInfo := rfl
@[simp] theorem State.setLife_fb (l : Life) : (State.setLife l s).fb = s.fb := rfl
@[simp] theorem State.setLife_host (l : Life) : (State.setLife l s).host = s.host := rfl
@[simp] theorem State.setLife_rstIn (l : Life) : (State.setLife l s).rstIn = s.rstIn := rfl
@[simp] theorem State.setLife_trace (l : Life) : (State.setLife l s).trace = s.trace := rfl
@[simp] theorem State.setLife_par (l : Life) : (State.setLife l s).par = s.par := rfl
@[simp] theorem State.setLife_freeIx (l : Life) : (State.setLife l s).freeIx = s.freeIx := rfl
@[simp] theorem State.setLife_env (l : Life) : (State.setLife l s).env = s.env := rfl
@[simp] theorem State.setLife_handed (l : Life) : (State.setLife l s).handed = s.handed := rfl

/-! ### setFault -/

@[simp] theorem State.setFault_cfg (c : FCode) (n : Nat) : (State.setFault c n s).cfg = s.cfg := rfl
@[simp] theorem State.setFault_op (c : FCode) (n : Nat) : (State.setFault c n s).op = s.op := rfl
@[simp] theorem State.setFault_row (c : FCode) (n : Nat) : (State.setFault c n s).row = s.row := rfl
@[simp] theorem State.setFault_stepNo (c : FCode) (n : Nat) : (State.setFault c n s).stepNo = s.stepNo := rfl
@[simp] theorem State.setFault_lenR (c : FCode) (n : Nat) : (State.setFault c n s).lenR = s.lenR := rfl
@[simp] theorem State.setFault_life (c : FCode) (n : Nat) : (State.setFault c n s).life = s.life := rfl
@[simp] theorem State.setFault_initialized (c : FCode) (n : Nat) : (State.setFault c n s).initialized = s.initialized := rfl
@[simp] theorem State.setFault_dc (c : FCode) (n : Nat) : (State.setFault c n s).dc = s.dc := rfl
@[simp] theorem State.setFault_res (c : FCode) (n : Nat) : (State.setFault c n s).res = s.res := rfl
@[simp] theorem State.setFault_fault (c : FCode) (n : Nat) : (State.setFault c n s).fault = true := rfl
@[simp] theorem State.setFault_fCode (c : FCode) (n : Nat) : (State.setFault c n s).fCode = c := rfl
@[simp] theorem State.setFault_fInfo (c : FCode) (n : Nat) : (State.setFault c n s).fInfo = n := rfl
@[simp] theorem State.setFault_fb (c : FCode) (n : Nat) : (State.setFault c n s).fb = s.fb := rfl
@[simp] theorem State.setFault_host (c : FCode) (n : Nat) : (State.setFault c n s).host = s.host := rfl
@[simp] theorem State.setFault_rstIn (c : FCode) (n : Nat) : (State.setFault c n s).rstIn = s.rstIn := rfl
@[simp] theorem State.setFault_trace (c : FCode) (n : Nat) : (State.setFault c n s).trace = s.trace := rfl
@[simp] theorem State.setFault_par (c : FCode) (n : Nat) : (State.setFault c n s).par = s.par := rfl
@[simp] theorem State.setFault_freeIx (c : FCode) (n : Nat) : (State.setFault c n s).freeIx = s.freeIx := rfl
@[simp] theorem State.setFault_env (c : FCode) (n : Nat) : (State.setFault c n s).env = s.env := rfl
@[simp] theorem State.setFault_handed (c : FCode) (n : Nat) : (State.setFault c n s).handed = s.handed := rfl

/-! ### setPc -/

@[simp] theorem State.setPc_cfg (o : Op) (r : BitVec 8) (n : Nat) : (State.setPc o r n s).cfg = s.cfg := rfl
@[simp] theorem State.setPc_op (o : Op) (r : BitVec 8) (n : Nat) : (State.setPc o r n s).op = o := rfl
@[simp] theorem State.setPc_row (o : Op) (r : BitVec 8) (n : Nat) : (State.setPc o r n s).row = r := rfl
@[simp] theorem State.setPc_stepNo (o : Op) (r : BitVec 8) (n : Nat) : (State.setPc o r n s).stepNo = n := rfl
@[simp] theorem State.setPc_lenR (o : Op) (r : BitVec 8) (n : Nat) : (State.setPc o r n s).lenR = s.lenR := rfl
@[simp] theorem State.setPc_life (o : Op) (r : BitVec 8) (n : Nat) : (State.setPc o r n s).life = s.life := rfl
@[simp] theorem State.setPc_initialized (o : Op) (r : BitVec 8) (n : Nat) : (State.setPc o r n s).initialized = s.initialized := rfl
@[simp] theorem State.setPc_dc (o : Op) (r : BitVec 8) (n : Nat) : (State.setPc o r n s).dc = s.dc := rfl
@[simp] theorem State.setPc_res (o : Op) (r : BitVec 8) (n : Nat) : (State.setPc o r n s).res = s.res := rfl
@[simp] theorem State.setPc_fault (o : Op) (r : BitVec 8) (n : Nat) : (State.setPc o r n s).fault = s.fault := rfl
@[simp] theorem State.setPc_fCode (o : Op) (r : BitVec 8) (n : Nat) : (State.setPc o r n s).fCode = s.fCode := rfl
@[simp] theorem State.setPc_fInfo (o : Op) (r : BitVec 8) (n : Nat) : (State.setPc o r n s).fInfo = s.fInfo := rfl
@[simp] theorem State.setPc_fb (o : Op) (r : BitVec 8) (n : Nat) : (State.setPc o r n s).fb = s.fb := rfl
@[simp] theorem State.setPc_host (o : Op) (r : BitVec 8) (n : Nat) : (State.setPc o r n s).host = s.host := rfl
@[simp] theorem State.setPc_rstIn (o : Op) (r : BitVec 8) (n : Nat) : (State.setPc o r n s).rstIn = s.rstIn := rfl
@[simp] theorem State.setPc_trace (o : Op) (r : BitVec 8) (n : Nat) : (State.setPc o r n s).trace = s.trace := rfl
@[simp] theorem State.setPc_par (o : Op) (r : BitVec 8) (n : Nat) : (State.setPc o r n s).par = s.par := rfl
@[simp] theorem State.setPc_freeIx (o : Op) (r : BitVec 8) (n : Nat) : (State.setPc o r n s).freeIx = s.freeIx := rfl
@[simp] theorem State.setPc_env (o : Op) (r : BitVec 8) (n : Nat) : (State.setPc o r n s).env = s.env := rfl
@[simp] theorem State.setPc_handed (o : Op) (r : BitVec 8) (n : Nat) : (State.setPc o r n s).handed = s.handed := rfl

/-! ### latchCfg -/

@[simp] theorem State.latchCfg_cfg (c : Cfg) : (State.latchCfg c s).cfg = c := rfl
@[simp] theorem State.latchCfg_op (c : Cfg) : (State.latchCfg c s).op = s.op := rfl
@[simp] theorem State.latchCfg_row (c : Cfg) : (State.latchCfg c s).row = s.row := rfl
@[simp] theorem State.latchCfg_stepNo (c : Cfg) : (State.latchCfg c s).stepNo = s.stepNo := rfl
@[simp] theorem State.latchCfg_lenR (c : Cfg) : (State.latchCfg c s).lenR = s.lenR := rfl
@[simp] theorem State.latchCfg_life (c : Cfg) : (State.latchCfg c s).life = s.life := rfl
@[simp] theorem State.latchCfg_initialized (c : Cfg) : (State.latchCfg c s).initialized = s.initialized := rfl
@[simp] theorem State.latchCfg_dc (c : Cfg) : (State.latchCfg c s).dc = s.dc := rfl
@[simp] theorem State.latchCfg_res (c : Cfg) : (State.latchCfg c s).res = s.res := rfl
@[simp] theorem State.latchCfg_fault (c : Cfg) : (State.latchCfg c s).fault = s.fault := rfl
@[simp] theorem State.latchCfg_fCode (c : Cfg) : (State.latchCfg c s).fCode = s.fCode := rfl
@[simp] theorem State.latchCfg_fInfo (c : Cfg) : (State.latchCfg c s).fInfo = s.fInfo := rfl
@[simp] theorem State.latchCfg_fb (c : Cfg) : (State.latchCfg c s).fb = s.fb := rfl
@[simp] theorem State.latchCfg_host (c : Cfg) : (State.latchCfg c s).host = s.host := rfl
@[simp] theorem State.latchCfg_rstIn (c : Cfg) : (State.latchCfg c s).rstIn = s.rstIn := rfl
@[simp] theorem State.latchCfg_trace (c : Cfg) : (State.latchCfg c s).trace = s.trace := rfl
@[simp] theorem State.latchCfg_par (c : Cfg) : (State.latchCfg c s).par = s.par := rfl
@[simp] theorem State.latchCfg_freeIx (c : Cfg) : (State.latchCfg c s).freeIx = s.freeIx := rfl
@[simp] theorem State.latchCfg_env (c : Cfg) : (State.latchCfg c s).env = s.env := rfl
@[simp] theorem State.latchCfg_handed (c : Cfg) : (State.latchCfg c s).handed = s.handed := rfl

/-! ### latchLen -/

@[simp] theorem State.latchLen_cfg (n : Nat) : (State.latchLen n s).cfg = s.cfg := rfl
@[simp] theorem State.latchLen_op (n : Nat) : (State.latchLen n s).op = s.op := rfl
@[simp] theorem State.latchLen_row (n : Nat) : (State.latchLen n s).row = s.row := rfl
@[simp] theorem State.latchLen_stepNo (n : Nat) : (State.latchLen n s).stepNo = s.stepNo := rfl
@[simp] theorem State.latchLen_lenR (n : Nat) : (State.latchLen n s).lenR = n := rfl
@[simp] theorem State.latchLen_life (n : Nat) : (State.latchLen n s).life = s.life := rfl
@[simp] theorem State.latchLen_initialized (n : Nat) : (State.latchLen n s).initialized = s.initialized := rfl
@[simp] theorem State.latchLen_dc (n : Nat) : (State.latchLen n s).dc = s.dc := rfl
@[simp] theorem State.latchLen_res (n : Nat) : (State.latchLen n s).res = s.res := rfl
@[simp] theorem State.latchLen_fault (n : Nat) : (State.latchLen n s).fault = s.fault := rfl
@[simp] theorem State.latchLen_fCode (n : Nat) : (State.latchLen n s).fCode = s.fCode := rfl
@[simp] theorem State.latchLen_fInfo (n : Nat) : (State.latchLen n s).fInfo = s.fInfo := rfl
@[simp] theorem State.latchLen_fb (n : Nat) : (State.latchLen n s).fb = s.fb := rfl
@[simp] theorem State.latchLen_host (n : Nat) : (State.latchLen n s).host = s.host := rfl
@[simp] theorem State.latchLen_rstIn (n : Nat) : (State.latchLen n s).rstIn = s.rstIn := rfl
@[simp] theorem State.latchLen_trace (n : Nat) : (State.latchLen n s).trace = s.trace := rfl
@[simp] theorem State.latchLen_par (n : Nat) : (State.latchLen n s).par = s.par := rfl
@[simp] theorem State.latchLen_freeIx (n : Nat) : (State.latchLen n s).freeIx = s.freeIx := rfl
@[simp] theorem State.latchLen_env (n : Nat) : (State.latchLen n s).env = s.env := rfl
@[simp] theorem State.latchLen_handed (n : Nat) : (State.latchLen n s).handed = s.handed := rfl

/-! ### record -/

@[simp] theorem State.record_cfg (e : Event) : (State.record e s).cfg = s.cfg := rfl
@[simp] theorem State.record_op (e : Event) : (State.record e s).op = s.op := rfl
@[simp] theorem State.record_row (e : Event) : (State.record e s).row = s.row := rfl
@[simp] theorem State.record_stepNo (e : Event) : (State.record e s).stepNo = s.stepNo := rfl
@[simp] theorem State.record_lenR (e : Event) : (State.record e s).lenR = s.lenR := rfl
@[simp] theorem State.record_life (e : Event) : (State.record e s).life = s.life := rfl
@[simp] theorem State.record_initialized (e : Event) : (State.record e s).initialized = s.initialized := rfl
@[simp] theorem State.record_dc (e : Event) : (State.record e s).dc = s.dc := rfl
@[simp] theorem State.record_res (e : Event) : (State.record e s).res = s.res := rfl
@[simp] theorem State.record_fault (e : Event) : (State.record e s).fault = s.fault := rfl
@[simp] theorem State.record_fCode (e : Event) : (State.record e s).fCode = s.fCode := rfl
@[simp] theorem State.record_fInfo (e : Event) : (State.record e s).fInfo = s.fInfo := rfl
@[simp] theorem State.record_fb (e : Event) : (State.record e s).fb = s.fb := rfl
@[simp] theorem State.record_host (e : Event) : (State.record e s).host = s.host := rfl
@[simp] theorem State.record_rstIn (e : Event) : (State.record e s).rstIn = s.rstIn := rfl
@[simp] theorem State.record_trace (e : Event) : (State.record e s).trace = s.trace ++ [e] := rfl
@[simp] theorem State.record_par (e : Event) : (State.record e s).par = s.par := rfl
@[simp] theorem State.record_freeIx (e : Event) : (State.record e s).freeIx = s.freeIx := rfl
@[simp] theorem State.record_env (e : Event) : (State.record e s).env = s.env := rfl
@[simp] theorem State.record_handed (e : Event) : (State.record e s).handed = s.handed := rfl

/-! ### takeRequest -/

@[simp] theorem State.takeRequest_cfg : (State.takeRequest s).cfg = s.cfg := rfl
@[simp] theorem State.takeRequest_op : (State.takeRequest s).op = s.op := rfl
@[simp] theorem State.takeRequest_row : (State.takeRequest s).row = s.row := rfl
@[simp] theorem State.takeRequest_stepNo : (State.takeRequest s).stepNo = s.stepNo := rfl
@[simp] theorem State.takeRequest_lenR : (State.takeRequest s).lenR = s.lenR := rfl
@[simp] theorem State.takeRequest_life : (State.takeRequest s).life = s.life := rfl
@[simp] theorem State.takeRequest_initialized : (State.takeRequest s).initialized = s.initialized := rfl
@[simp] theorem State.takeRequest_dc : (State.takeRequest s).dc = s.dc := rfl
@[simp] theorem State.takeRequest_res : (State.takeRequest s).res = s.res := rfl
@[simp] theorem State.takeRequest_fault : (State.takeRequest s).fault = s.fault := rfl
@[simp] theorem State.takeRequest_fCode : (State.takeRequest s).fCode = s.fCode := rfl
@[simp] theorem State.takeRequest_fInfo : (State.takeRequest s).fInfo = s.fInfo := rfl
@[simp] theorem State.takeRequest_fb : (State.takeRequest s).fb = s.fb := rfl
@[simp] theorem State.takeRequest_host : (State.takeRequest s).host = s.host.tail := rfl
@[simp] theorem State.takeRequest_rstIn : (State.takeRequest s).rstIn = s.rstIn := rfl
@[simp] theorem State.takeRequest_trace : (State.takeRequest s).trace = s.trace := rfl
@[simp] theorem State.takeRequest_par : (State.takeRequest s).par = s.par := rfl
@[simp] theorem State.takeRequest_freeIx : (State.takeRequest s).freeIx = s.freeIx := rfl
@[simp] theorem State.takeRequest_env : (State.takeRequest s).env = s.env := rfl
@[simp] theorem State.takeRequest_handed : (State.takeRequest s).handed = s.handed := rfl

/-! ### present -/

@[simp] theorem State.present_cfg (w : ReqWord) : (State.present w s).cfg = s.cfg := rfl
@[simp] theorem State.present_op (w : ReqWord) : (State.present w s).op = s.op := rfl
@[simp] theorem State.present_row (w : ReqWord) : (State.present w s).row = s.row := rfl
@[simp] theorem State.present_stepNo (w : ReqWord) : (State.present w s).stepNo = s.stepNo := rfl
@[simp] theorem State.present_lenR (w : ReqWord) : (State.present w s).lenR = s.lenR := rfl
@[simp] theorem State.present_life (w : ReqWord) : (State.present w s).life = s.life := rfl
@[simp] theorem State.present_initialized (w : ReqWord) : (State.present w s).initialized = s.initialized := rfl
@[simp] theorem State.present_dc (w : ReqWord) : (State.present w s).dc = s.dc := rfl
@[simp] theorem State.present_res (w : ReqWord) : (State.present w s).res = s.res := rfl
@[simp] theorem State.present_fault (w : ReqWord) : (State.present w s).fault = s.fault := rfl
@[simp] theorem State.present_fCode (w : ReqWord) : (State.present w s).fCode = s.fCode := rfl
@[simp] theorem State.present_fInfo (w : ReqWord) : (State.present w s).fInfo = s.fInfo := rfl
@[simp] theorem State.present_fb (w : ReqWord) : (State.present w s).fb = s.fb := rfl
@[simp] theorem State.present_host (w : ReqWord) : (State.present w s).host = s.host ++ [w] := rfl
@[simp] theorem State.present_rstIn (w : ReqWord) : (State.present w s).rstIn = s.rstIn := rfl
@[simp] theorem State.present_trace (w : ReqWord) : (State.present w s).trace = s.trace := rfl
@[simp] theorem State.present_par (w : ReqWord) : (State.present w s).par = s.par := rfl
@[simp] theorem State.present_freeIx (w : ReqWord) : (State.present w s).freeIx = s.freeIx := rfl
@[simp] theorem State.present_env (w : ReqWord) : (State.present w s).env = s.env := rfl
@[simp] theorem State.present_handed (w : ReqWord) : (State.present w s).handed = s.handed := rfl

/-! ### storeFb -/

@[simp] theorem State.storeFb_cfg (off : Nat) (b : Byte) : (State.storeFb off b s).cfg = s.cfg := rfl
@[simp] theorem State.storeFb_op (off : Nat) (b : Byte) : (State.storeFb off b s).op = s.op := rfl
@[simp] theorem State.storeFb_row (off : Nat) (b : Byte) : (State.storeFb off b s).row = s.row := rfl
@[simp] theorem State.storeFb_stepNo (off : Nat) (b : Byte) : (State.storeFb off b s).stepNo = s.stepNo := rfl
@[simp] theorem State.storeFb_lenR (off : Nat) (b : Byte) : (State.storeFb off b s).lenR = s.lenR := rfl
@[simp] theorem State.storeFb_life (off : Nat) (b : Byte) : (State.storeFb off b s).life = s.life := rfl
@[simp] theorem State.storeFb_initialized (off : Nat) (b : Byte) : (State.storeFb off b s).initialized = s.initialized := rfl
@[simp] theorem State.storeFb_dc (off : Nat) (b : Byte) : (State.storeFb off b s).dc = s.dc := rfl
@[simp] theorem State.storeFb_res (off : Nat) (b : Byte) : (State.storeFb off b s).res = s.res := rfl
@[simp] theorem State.storeFb_fault (off : Nat) (b : Byte) : (State.storeFb off b s).fault = s.fault := rfl
@[simp] theorem State.storeFb_fCode (off : Nat) (b : Byte) : (State.storeFb off b s).fCode = s.fCode := rfl
@[simp] theorem State.storeFb_fInfo (off : Nat) (b : Byte) : (State.storeFb off b s).fInfo = s.fInfo := rfl
@[simp] theorem State.storeFb_fb (off : Nat) (b : Byte) : (State.storeFb off b s).fb = s.fb.write off b := rfl
@[simp] theorem State.storeFb_host (off : Nat) (b : Byte) : (State.storeFb off b s).host = s.host := rfl
@[simp] theorem State.storeFb_rstIn (off : Nat) (b : Byte) : (State.storeFb off b s).rstIn = s.rstIn := rfl
@[simp] theorem State.storeFb_trace (off : Nat) (b : Byte) : (State.storeFb off b s).trace = s.trace := rfl
@[simp] theorem State.storeFb_par (off : Nat) (b : Byte) : (State.storeFb off b s).par = s.par := rfl
@[simp] theorem State.storeFb_freeIx (off : Nat) (b : Byte) : (State.storeFb off b s).freeIx = s.freeIx := rfl
@[simp] theorem State.storeFb_env (off : Nat) (b : Byte) : (State.storeFb off b s).env = s.env := rfl
@[simp] theorem State.storeFb_handed (off : Nat) (b : Byte) : (State.storeFb off b s).handed = s.handed := rfl

/-! ### setHanded -/

@[simp] theorem State.setHanded_cfg (h : Option Byte) : (State.setHanded h s).cfg = s.cfg := rfl
@[simp] theorem State.setHanded_op (h : Option Byte) : (State.setHanded h s).op = s.op := rfl
@[simp] theorem State.setHanded_row (h : Option Byte) : (State.setHanded h s).row = s.row := rfl
@[simp] theorem State.setHanded_stepNo (h : Option Byte) : (State.setHanded h s).stepNo = s.stepNo := rfl
@[simp] theorem State.setHanded_lenR (h : Option Byte) : (State.setHanded h s).lenR = s.lenR := rfl
@[simp] theorem State.setHanded_life (h : Option Byte) : (State.setHanded h s).life = s.life := rfl
@[simp] theorem State.setHanded_initialized (h : Option Byte) : (State.setHanded h s).initialized = s.initialized := rfl
@[simp] theorem State.setHanded_dc (h : Option Byte) : (State.setHanded h s).dc = s.dc := rfl
@[simp] theorem State.setHanded_res (h : Option Byte) : (State.setHanded h s).res = s.res := rfl
@[simp] theorem State.setHanded_fault (h : Option Byte) : (State.setHanded h s).fault = s.fault := rfl
@[simp] theorem State.setHanded_fCode (h : Option Byte) : (State.setHanded h s).fCode = s.fCode := rfl
@[simp] theorem State.setHanded_fInfo (h : Option Byte) : (State.setHanded h s).fInfo = s.fInfo := rfl
@[simp] theorem State.setHanded_fb (h : Option Byte) : (State.setHanded h s).fb = s.fb := rfl
@[simp] theorem State.setHanded_host (h : Option Byte) : (State.setHanded h s).host = s.host := rfl
@[simp] theorem State.setHanded_rstIn (h : Option Byte) : (State.setHanded h s).rstIn = s.rstIn := rfl
@[simp] theorem State.setHanded_trace (h : Option Byte) : (State.setHanded h s).trace = s.trace := rfl
@[simp] theorem State.setHanded_par (h : Option Byte) : (State.setHanded h s).par = s.par := rfl
@[simp] theorem State.setHanded_freeIx (h : Option Byte) : (State.setHanded h s).freeIx = s.freeIx := rfl
@[simp] theorem State.setHanded_env (h : Option Byte) : (State.setHanded h s).env = s.env := rfl
@[simp] theorem State.setHanded_handed (h : Option Byte) : (State.setHanded h s).handed = h := rfl

/-! ### assertReset -/

@[simp] theorem State.assertReset_cfg : (State.assertReset s).cfg = s.cfg := rfl
@[simp] theorem State.assertReset_op : (State.assertReset s).op = s.op := rfl
@[simp] theorem State.assertReset_row : (State.assertReset s).row = s.row := rfl
@[simp] theorem State.assertReset_stepNo : (State.assertReset s).stepNo = s.stepNo := rfl
@[simp] theorem State.assertReset_lenR : (State.assertReset s).lenR = s.lenR := rfl
@[simp] theorem State.assertReset_life : (State.assertReset s).life = s.life := rfl
@[simp] theorem State.assertReset_initialized : (State.assertReset s).initialized = s.initialized := rfl
@[simp] theorem State.assertReset_dc : (State.assertReset s).dc = s.dc := rfl
@[simp] theorem State.assertReset_res : (State.assertReset s).res = s.res := rfl
@[simp] theorem State.assertReset_fault : (State.assertReset s).fault = s.fault := rfl
@[simp] theorem State.assertReset_fCode : (State.assertReset s).fCode = s.fCode := rfl
@[simp] theorem State.assertReset_fInfo : (State.assertReset s).fInfo = s.fInfo := rfl
@[simp] theorem State.assertReset_fb : (State.assertReset s).fb = s.fb := rfl
@[simp] theorem State.assertReset_host : (State.assertReset s).host = s.host := rfl
@[simp] theorem State.assertReset_rstIn : (State.assertReset s).rstIn = true := rfl
@[simp] theorem State.assertReset_trace : (State.assertReset s).trace = s.trace := rfl
@[simp] theorem State.assertReset_par : (State.assertReset s).par = s.par := rfl
@[simp] theorem State.assertReset_freeIx : (State.assertReset s).freeIx = s.freeIx := rfl
@[simp] theorem State.assertReset_env : (State.assertReset s).env = s.env := rfl
@[simp] theorem State.assertReset_handed : (State.assertReset s).handed = s.handed := rfl

/-! ### setEnv -/

@[simp] theorem State.setEnv_cfg (e : Env) : (State.setEnv e s).cfg = s.cfg := rfl
@[simp] theorem State.setEnv_op (e : Env) : (State.setEnv e s).op = s.op := rfl
@[simp] theorem State.setEnv_row (e : Env) : (State.setEnv e s).row = s.row := rfl
@[simp] theorem State.setEnv_stepNo (e : Env) : (State.setEnv e s).stepNo = s.stepNo := rfl
@[simp] theorem State.setEnv_lenR (e : Env) : (State.setEnv e s).lenR = s.lenR := rfl
@[simp] theorem State.setEnv_life (e : Env) : (State.setEnv e s).life = s.life := rfl
@[simp] theorem State.setEnv_initialized (e : Env) : (State.setEnv e s).initialized = s.initialized := rfl
@[simp] theorem State.setEnv_dc (e : Env) : (State.setEnv e s).dc = s.dc := rfl
@[simp] theorem State.setEnv_res (e : Env) : (State.setEnv e s).res = s.res := rfl
@[simp] theorem State.setEnv_fault (e : Env) : (State.setEnv e s).fault = s.fault := rfl
@[simp] theorem State.setEnv_fCode (e : Env) : (State.setEnv e s).fCode = s.fCode := rfl
@[simp] theorem State.setEnv_fInfo (e : Env) : (State.setEnv e s).fInfo = s.fInfo := rfl
@[simp] theorem State.setEnv_fb (e : Env) : (State.setEnv e s).fb = s.fb := rfl
@[simp] theorem State.setEnv_host (e : Env) : (State.setEnv e s).host = s.host := rfl
@[simp] theorem State.setEnv_rstIn (e : Env) : (State.setEnv e s).rstIn = s.rstIn := rfl
@[simp] theorem State.setEnv_trace (e : Env) : (State.setEnv e s).trace = s.trace := rfl
@[simp] theorem State.setEnv_par (e : Env) : (State.setEnv e s).par = s.par := rfl
@[simp] theorem State.setEnv_freeIx (e : Env) : (State.setEnv e s).freeIx = s.freeIx := rfl
@[simp] theorem State.setEnv_env (e : Env) : (State.setEnv e s).env = e := rfl
@[simp] theorem State.setEnv_handed (e : Env) : (State.setEnv e s).handed = s.handed := rfl

end Sys2Proof.Machine
end

