-- ==== Sys2Proof/Laws/Ops.lean ====
section
/-! SUPPORT. What the shared operations leave in each field, and one lemma per operation that says everything it can
do. -/

namespace Sys2Proof.Machine

variable (s : State)

/-! ### Performing an event -/

@[simp] theorem State.perform_cfg (e : Event) : (s.perform e).cfg = s.cfg := by cases e <;> rfl
@[simp] theorem State.perform_op (e : Event) : (s.perform e).op = s.op := by cases e <;> rfl
@[simp] theorem State.perform_row (e : Event) : (s.perform e).row = s.row := by cases e <;> rfl
@[simp] theorem State.perform_stepNo (e : Event) : (s.perform e).stepNo = s.stepNo := by cases e <;> rfl
@[simp] theorem State.perform_lenR (e : Event) : (s.perform e).lenR = s.lenR := by cases e <;> rfl
@[simp] theorem State.perform_life (e : Event) : (s.perform e).life = s.life := by cases e <;> rfl
@[simp] theorem State.perform_initialized (e : Event) : (s.perform e).initialized = s.initialized := by cases e <;> rfl
@[simp] theorem State.perform_fault (e : Event) : (s.perform e).fault = s.fault := by cases e <;> rfl
@[simp] theorem State.perform_fCode (e : Event) : (s.perform e).fCode = s.fCode := by cases e <;> rfl
@[simp] theorem State.perform_fInfo (e : Event) : (s.perform e).fInfo = s.fInfo := by cases e <;> rfl
@[simp] theorem State.perform_fb (e : Event) : (s.perform e).fb = s.fb := by cases e <;> rfl
@[simp] theorem State.perform_host (e : Event) : (s.perform e).host = s.host := by cases e <;> rfl
@[simp] theorem State.perform_rstIn (e : Event) : (s.perform e).rstIn = s.rstIn := by cases e <;> rfl
@[simp] theorem State.perform_par (e : Event) : (s.perform e).par = s.par := by cases e <;> rfl
@[simp] theorem State.perform_freeIx (e : Event) : (s.perform e).freeIx = s.freeIx := by cases e <;> rfl
@[simp] theorem State.perform_env (e : Event) : (s.perform e).env = s.env := by cases e <;> rfl
@[simp] theorem State.perform_handed (e : Event) : (s.perform e).handed = s.handed := by cases e <;> rfl
@[simp] theorem State.perform_trace (e : Event) : (s.perform e).trace = s.trace ++ [e] := by cases e <;> rfl
@[simp] theorem State.perform_tx_dc (m : Mode) (b : Byte) : (s.perform (.tx m b)).dc = m := rfl
@[simp] theorem State.perform_tx_res (m : Mode) (b : Byte) : (s.perform (.tx m b)).res = s.res := rfl
@[simp] theorem State.perform_res_res (l : Level) : (s.perform (.res l)).res = l := rfl
@[simp] theorem State.perform_res_dc (l : Level) : (s.perform (.res l)).dc = s.dc := rfl
@[simp] theorem State.perform_dly_res (n : Nat) : (s.perform (.dly n)).res = s.res := rfl
@[simp] theorem State.perform_dly_dc (n : Nat) : (s.perform (.dly n)).dc = s.dc := rfl

/-! ### Advancing the position -/

@[simp] theorem State.advance_cfg : s.advance.cfg = s.cfg := by
  unfold State.advance State.advanceInit State.advanceDeinit State.advanceDisplay
  repeat' split
  all_goals rfl
@[simp] theorem State.advance_lenR : s.advance.lenR = s.lenR := by
  unfold State.advance State.advanceInit State.advanceDeinit State.advanceDisplay
  repeat' split
  all_goals rfl
@[simp] theorem State.advance_dc : s.advance.dc = s.dc := by
  unfold State.advance State.advanceInit State.advanceDeinit State.advanceDisplay
  repeat' split
  all_goals rfl
@[simp] theorem State.advance_res : s.advance.res = s.res := by
  unfold State.advance State.advanceInit State.advanceDeinit State.advanceDisplay
  repeat' split
  all_goals rfl
@[simp] theorem State.advance_fault : s.advance.fault = s.fault := by
  unfold State.advance State.advanceInit State.advanceDeinit State.advanceDisplay
  repeat' split
  all_goals rfl
@[simp] theorem State.advance_fCode : s.advance.fCode = s.fCode := by
  unfold State.advance State.advanceInit State.advanceDeinit State.advanceDisplay
  repeat' split
  all_goals rfl
@[simp] theorem State.advance_fInfo : s.advance.fInfo = s.fInfo := by
  unfold State.advance State.advanceInit State.advanceDeinit State.advanceDisplay
  repeat' split
  all_goals rfl
@[simp] theorem State.advance_fb : s.advance.fb = s.fb := by
  unfold State.advance State.advanceInit State.advanceDeinit State.advanceDisplay
  repeat' split
  all_goals rfl
@[simp] theorem State.advance_host : s.advance.host = s.host := by
  unfold State.advance State.advanceInit State.advanceDeinit State.advanceDisplay
  repeat' split
  all_goals rfl
@[simp] theorem State.advance_rstIn : s.advance.rstIn = s.rstIn := by
  unfold State.advance State.advanceInit State.advanceDeinit State.advanceDisplay
  repeat' split
  all_goals rfl
@[simp] theorem State.advance_trace : s.advance.trace = s.trace := by
  unfold State.advance State.advanceInit State.advanceDeinit State.advanceDisplay
  repeat' split
  all_goals rfl
@[simp] theorem State.advance_par : s.advance.par = s.par := by
  unfold State.advance State.advanceInit State.advanceDeinit State.advanceDisplay
  repeat' split
  all_goals rfl
@[simp] theorem State.advance_freeIx : s.advance.freeIx = s.freeIx := by
  unfold State.advance State.advanceInit State.advanceDeinit State.advanceDisplay
  repeat' split
  all_goals rfl
@[simp] theorem State.advance_env : s.advance.env = s.env := by
  unfold State.advance State.advanceInit State.advanceDeinit State.advanceDisplay
  repeat' split
  all_goals rfl

@[simp] theorem State.advance_handed : s.advance.handed = s.handed := by
  unfold State.advance State.advanceInit State.advanceDeinit State.advanceDisplay
  repeat' split
  all_goals rfl

/-- The advance of INIT before its last step (42_sequencer.md R148). -/
theorem State.advance_init_mid {s : State} (ho : s.op = .init) (h : s.stepNo + 1 < s.par.initLen) :
    s.advance = { s with stepNo := s.stepNo + 1, life := if s.stepNo = 3 then .config else s.life } := by
  obtain ⟨_, op, _, _, _, _, _, _, _, _, _, _, _, _, _, _, _, _, _, _⟩ := s
  cases ho
  simp only [State.advance, State.advanceInit, h, if_true]
  split <;> rfl

/-- The advance of INIT's last step (R149). -/
theorem State.advance_init_last {s : State} (ho : s.op = .init) (h : ¬ s.stepNo + 1 < s.par.initLen) :
    s.advance = { s with op := .idle, row := 0, stepNo := 0, life := .on, initialized := true } := by
  obtain ⟨_, op, _, _, _, _, _, _, _, _, _, _, _, _, _, _, _, _, _, _⟩ := s
  cases ho
  simp only [State.advance, State.advanceInit, h, if_false]
  rfl

/-- The advance of DEINIT before its last step (R151). -/
theorem State.advance_deinit_mid {s : State} (ho : s.op = .deinit) (h : s.stepNo + 1 < Params.deinitLen) :
    s.advance = { s with stepNo := s.stepNo + 1 } := by
  obtain ⟨_, op, _, _, _, _, _, _, _, _, _, _, _, _, _, _, _, _, _, _⟩ := s
  cases ho
  simp only [State.advance, State.advanceDeinit, h, if_true]
  rfl

/-- The advance of DEINIT's last step (R151). -/
theorem State.advance_deinit_last {s : State} (ho : s.op = .deinit) (h : ¬ s.stepNo + 1 < Params.deinitLen) :
    s.advance = { s with op := .idle, row := 0, stepNo := 0, life := .deinit, initialized := false } := by
  obtain ⟨_, op, _, _, _, _, _, _, _, _, _, _, _, _, _, _, _, _, _, _⟩ := s
  cases ho
  simp only [State.advance, State.advanceDeinit, h, if_false]
  rfl

/-- The advance of DISPLAY within a row (R153, R155). -/
theorem State.advance_display_slot {s : State} (ho : s.op = .display) (h : s.stepNo < s.par.wb + 2) :
    s.advance = { s with stepNo := s.stepNo + 1 } := by
  obtain ⟨_, op, _, _, _, _, _, _, _, _, _, _, _, _, _, _, _, _, _, _⟩ := s
  cases ho
  simp only [State.advance, State.advanceDisplay, h, if_true]
  rfl

/-- The advance of DISPLAY at the end of a row that is not the last (R155). -/
theorem State.advance_display_row {s : State} (ho : s.op = .display) (h : ¬ s.stepNo < s.par.wb + 2)
    (hr : s.row.toNat + 1 < s.par.height) : s.advance = { s with row := s.row + 1, stepNo := 0 } := by
  obtain ⟨_, op, _, _, _, _, _, _, _, _, _, _, _, _, _, _, _, _, _, _⟩ := s
  cases ho
  simp only [State.advance, State.advanceDisplay, h, hr, if_true, if_false]
  rfl

/-- The advance of DISPLAY at the end of the frame (R155). -/
theorem State.advance_display_last {s : State} (ho : s.op = .display) (h : ¬ s.stepNo < s.par.wb + 2)
    (hr : ¬ s.row.toNat + 1 < s.par.height) : s.advance = { s with op := .idle, row := 0, stepNo := 0 } := by
  obtain ⟨_, op, _, _, _, _, _, _, _, _, _, _, _, _, _, _, _, _, _, _⟩ := s
  cases ho
  simp only [State.advance, State.advanceDisplay, h, hr, if_false]
  rfl

/-! ### A step of SEQ -/

@[simp] theorem State.seqStep_cfg (e : Event) : (s.seqStep e).cfg = s.cfg := by simp [State.seqStep]
@[simp] theorem State.seqStep_lenR (e : Event) : (s.seqStep e).lenR = s.lenR := by simp [State.seqStep]
@[simp] theorem State.seqStep_fault (e : Event) : (s.seqStep e).fault = s.fault := by simp [State.seqStep]
@[simp] theorem State.seqStep_fCode (e : Event) : (s.seqStep e).fCode = s.fCode := by simp [State.seqStep]
@[simp] theorem State.seqStep_fInfo (e : Event) : (s.seqStep e).fInfo = s.fInfo := by simp [State.seqStep]
@[simp] theorem State.seqStep_fb (e : Event) : (s.seqStep e).fb = s.fb := by simp [State.seqStep]
@[simp] theorem State.seqStep_host (e : Event) : (s.seqStep e).host = s.host := by simp [State.seqStep]
@[simp] theorem State.seqStep_rstIn (e : Event) : (s.seqStep e).rstIn = s.rstIn := by simp [State.seqStep]
@[simp] theorem State.seqStep_par (e : Event) : (s.seqStep e).par = s.par := by simp [State.seqStep]
@[simp] theorem State.seqStep_freeIx (e : Event) : (s.seqStep e).freeIx = s.freeIx := by simp [State.seqStep]
@[simp] theorem State.seqStep_env (e : Event) : (s.seqStep e).env = s.env := by simp [State.seqStep]
@[simp] theorem State.seqStep_handed (e : Event) : (s.seqStep e).handed = none := by simp [State.seqStep]
@[simp] theorem State.seqStep_trace (e : Event) : (s.seqStep e).trace = s.trace ++ [e] := by simp [State.seqStep]
@[simp] theorem State.seqStep_dc (e : Event) : (s.seqStep e).dc = (s.perform e).dc := by simp [State.seqStep]
@[simp] theorem State.seqStep_res (e : Event) : (s.seqStep e).res = (s.perform e).res := by simp [State.seqStep]

/-! ### The fields that an advance writes, after a whole step of SEQ -/

/-- A step of SEQ before the last step of INIT (R148). -/
theorem State.seqStep_init_mid {s : State} (e : Event) (ho : s.op = .init) (h : s.stepNo + 1 < s.par.initLen) :
    (s.seqStep e).op = .init ∧ (s.seqStep e).row = s.row ∧ (s.seqStep e).stepNo = s.stepNo + 1 ∧
    (s.seqStep e).life = (if s.stepNo = 3 then .config else s.life) ∧ (s.seqStep e).initialized = s.initialized := by
  unfold State.seqStep
  rw [State.advance_init_mid (s := (s.perform e).setHanded none) (by simpa using ho) (by simpa using h)]
  simp [ho]

/-- A step of SEQ at the last step of INIT (R149). -/
theorem State.seqStep_init_last {s : State} (e : Event) (ho : s.op = .init) (h : ¬ s.stepNo + 1 < s.par.initLen) :
    (s.seqStep e).op = .idle ∧ (s.seqStep e).row = 0 ∧ (s.seqStep e).stepNo = 0 ∧
    (s.seqStep e).life = (.on) ∧ (s.seqStep e).initialized = true := by
  unfold State.seqStep
  rw [State.advance_init_last (s := (s.perform e).setHanded none) (by simpa using ho) (by simpa using h)]
  simp

/-- A step of SEQ before the last step of DEINIT (R151). -/
theorem State.seqStep_deinit_mid {s : State} (e : Event) (ho : s.op = .deinit) (h : s.stepNo + 1 < Params.deinitLen) :
    (s.seqStep e).op = .deinit ∧ (s.seqStep e).row = s.row ∧ (s.seqStep e).stepNo = s.stepNo + 1 ∧
    (s.seqStep e).life = (s.life) ∧ (s.seqStep e).initialized = s.initialized := by
  unfold State.seqStep
  rw [State.advance_deinit_mid (s := (s.perform e).setHanded none) (by simpa using ho) (by simpa using h)]
  simp [ho]

/-- A step of SEQ at the last step of DEINIT (R151). -/
theorem State.seqStep_deinit_last {s : State} (e : Event) (ho : s.op = .deinit) (h : ¬ s.stepNo + 1 < Params.deinitLen) :
    (s.seqStep e).op = .idle ∧ (s.seqStep e).row = 0 ∧ (s.seqStep e).stepNo = 0 ∧
    (s.seqStep e).life = (.deinit) ∧ (s.seqStep e).initialized = false := by
  unfold State.seqStep
  rw [State.advance_deinit_last (s := (s.perform e).setHanded none) (by simpa using ho) (by simpa using h)]
  simp

/-- A step of SEQ within a row of DISPLAY (R153, R155). -/
theorem State.seqStep_display_slot {s : State} (e : Event) (ho : s.op = .display) (h : s.stepNo < s.par.wb + 2) :
    (s.seqStep e).op = .display ∧ (s.seqStep e).row = s.row ∧ (s.seqStep e).stepNo = s.stepNo + 1 ∧
    (s.seqStep e).life = (s.life) ∧ (s.seqStep e).initialized = s.initialized := by
  unfold State.seqStep
  rw [State.advance_display_slot (s := (s.perform e).setHanded none) (by simpa using ho) (by simpa using h)]
  simp [ho]

/-- A step of SEQ at the end of a row that is not the last (R155). -/
theorem State.seqStep_display_row {s : State} (e : Event) (ho : s.op = .display) (h : ¬ s.stepNo < s.par.wb + 2) (hr : s.row.toNat + 1 < s.par.height) :
    (s.seqStep e).op = .display ∧ (s.seqStep e).row = s.row + 1 ∧ (s.seqStep e).stepNo = 0 ∧
    (s.seqStep e).life = (s.life) ∧ (s.seqStep e).initialized = s.initialized := by
  unfold State.seqStep
  rw [State.advance_display_row (s := (s.perform e).setHanded none) (by simpa using ho) (by simpa using h) (by simpa using hr)]
  simp [ho]

/-- A step of SEQ at the end of the frame (R155). -/
theorem State.seqStep_display_last {s : State} (e : Event) (ho : s.op = .display) (h : ¬ s.stepNo < s.par.wb + 2) (hr : ¬ s.row.toNat + 1 < s.par.height) :
    (s.seqStep e).op = .idle ∧ (s.seqStep e).row = 0 ∧ (s.seqStep e).stepNo = 0 ∧
    (s.seqStep e).life = (s.life) ∧ (s.seqStep e).initialized = s.initialized := by
  unfold State.seqStep
  rw [State.advance_display_last (s := (s.perform e).setHanded none) (by simpa using ho) (by simpa using h) (by simpa using hr)]
  simp

/-! ### Waiting in an event -/

@[simp] theorem State.await_cfg (e : Event) : (s.await e).cfg = s.cfg := by
  rcases e with _ | _ | ⟨_ | _, _⟩ <;> simp only [State.await] <;> (try split) <;> rfl
@[simp] theorem State.await_op (e : Event) : (s.await e).op = s.op := by
  rcases e with _ | _ | ⟨_ | _, _⟩ <;> simp only [State.await] <;> (try split) <;> rfl
@[simp] theorem State.await_row (e : Event) : (s.await e).row = s.row := by
  rcases e with _ | _ | ⟨_ | _, _⟩ <;> simp only [State.await] <;> (try split) <;> rfl
@[simp] theorem State.await_stepNo (e : Event) : (s.await e).stepNo = s.stepNo := by
  rcases e with _ | _ | ⟨_ | _, _⟩ <;> simp only [State.await] <;> (try split) <;> rfl
@[simp] theorem State.await_lenR (e : Event) : (s.await e).lenR = s.lenR := by
  rcases e with _ | _ | ⟨_ | _, _⟩ <;> simp only [State.await] <;> (try split) <;> rfl
@[simp] theorem State.await_life (e : Event) : (s.await e).life = s.life := by
  rcases e with _ | _ | ⟨_ | _, _⟩ <;> simp only [State.await] <;> (try split) <;> rfl
@[simp] theorem State.await_initialized (e : Event) : (s.await e).initialized = s.initialized := by
  rcases e with _ | _ | ⟨_ | _, _⟩ <;> simp only [State.await] <;> (try split) <;> rfl
@[simp] theorem State.await_res (e : Event) : (s.await e).res = s.res := by
  rcases e with _ | _ | ⟨_ | _, _⟩ <;> simp only [State.await] <;> (try split) <;> rfl
@[simp] theorem State.await_fault (e : Event) : (s.await e).fault = s.fault := by
  rcases e with _ | _ | ⟨_ | _, _⟩ <;> simp only [State.await] <;> (try split) <;> rfl
@[simp] theorem State.await_fCode (e : Event) : (s.await e).fCode = s.fCode := by
  rcases e with _ | _ | ⟨_ | _, _⟩ <;> simp only [State.await] <;> (try split) <;> rfl
@[simp] theorem State.await_fInfo (e : Event) : (s.await e).fInfo = s.fInfo := by
  rcases e with _ | _ | ⟨_ | _, _⟩ <;> simp only [State.await] <;> (try split) <;> rfl
@[simp] theorem State.await_fb (e : Event) : (s.await e).fb = s.fb := by
  rcases e with _ | _ | ⟨_ | _, _⟩ <;> simp only [State.await] <;> (try split) <;> rfl
@[simp] theorem State.await_host (e : Event) : (s.await e).host = s.host := by
  rcases e with _ | _ | ⟨_ | _, _⟩ <;> simp only [State.await] <;> (try split) <;> rfl
@[simp] theorem State.await_rstIn (e : Event) : (s.await e).rstIn = s.rstIn := by
  rcases e with _ | _ | ⟨_ | _, _⟩ <;> simp only [State.await] <;> (try split) <;> rfl
@[simp] theorem State.await_env (e : Event) : (s.await e).env = s.env := by
  rcases e with _ | _ | ⟨_ | _, _⟩ <;> simp only [State.await] <;> (try split) <;> rfl
@[simp] theorem State.await_trace (e : Event) : (s.await e).trace = s.trace := by
  rcases e with _ | _ | ⟨_ | _, _⟩ <;> simp only [State.await] <;> (try split) <;> rfl
@[simp] theorem State.await_par (e : Event) : (s.await e).par = s.par := by
  rcases e with _ | _ | ⟨_ | _, _⟩ <;> simp only [State.await] <;> (try split) <;> rfl
@[simp] theorem State.await_freeIx (e : Event) : (s.await e).freeIx = s.freeIx := by
  rcases e with _ | _ | ⟨_ | _, _⟩ <;> simp only [State.await] <;> (try split) <;> rfl

/-- All that waiting in an event can change is DC and the byte at the transport. -/
theorem State.await_eq (s : State) (e : Event) :
    s.await e = { s with dc := (s.await e).dc, handed := (s.await e).handed } := by
  rcases e with _ | _ | ⟨_ | _, _⟩ <;> simp only [State.await] <;> (try split) <;> rfl

/-- Waiting for the timer changes nothing. -/
theorem State.await_dly (n : Nat) : s.await (.dly n) = s := rfl

/-- Waiting for the transport with a command byte: DC is COMMAND. -/
theorem State.await_command (b : Byte) : s.await (.tx .command b) = { s with dc := .command } := rfl

/-- Waiting for the port changes nothing. -/
theorem State.await_data_unread {s : State} (b : Byte) (h : s.byteAtHand = false) : s.await (.tx .data b) = s := by
  simp [State.await, h]

/-- Waiting for the transport with a data byte: DC is DATA and the byte is kept. -/
theorem State.await_data_read {s : State} (b : Byte) (h : s.byteAtHand = true) :
    s.await (.tx .data b) = { s with dc := .data, handed := some b } := by
  simp [State.await, h, State.setDc, State.setHanded]

/-- Waiting on changes nothing more. -/
theorem State.await_await (s : State) (e : Event) : (s.await e).await e = s.await e := by
  rcases e with _ | _ | ⟨_ | _, b⟩
  · rfl
  · rfl
  · rfl
  · cases h : s.byteAtHand with
    | false => rw [State.await_data_unread b h, State.await_data_unread b h]
    | true =>
      rw [State.await_data_read b h]
      exact State.await_data_read b rfl

/-- Performing an event after waiting in it is performing it at once. -/
theorem State.seqStep_await (s : State) (e : Event) : (s.await e).seqStep e = s.seqStep e := by
  rcases e with _ | _ | ⟨_ | _, _⟩ <;> simp only [State.await] <;> (try split) <;> rfl

/-- With an environment that answers, every event ends. -/
theorem State.answered_of_answering {s : State} (h : s.env = .answering) (e : Event) : s.answered e = true := by
  rcases e with _ | _ | ⟨_ | _, _⟩ <;> simp [State.answered, State.byteAtHand, h, Env.answering]

/-! ### SEQ's step -/

/-- Where SEQ has a step and the environment answers, `emit` performs the event. -/
theorem State.emit_enabled {s : State} (e : Event) (h : s.enabled = true) (ha : s.answered e = true) :
    s.emit e = .next (s.seqStep e) := by
  simp [State.emit, h, ha]

/-- Where SEQ has a step and the environment does not answer, `emit` waits in the event. -/
theorem State.emit_waits {s : State} (e : Event) (h : s.enabled = true) (ha : s.answered e = false) :
    s.emit e = .next (s.await e) := by
  simp [State.emit, h, ha]

/-- Where SEQ has no step, `emit` changes nothing. -/
theorem State.emit_disabled {s : State} (e : Event) (h : s.enabled = false) : s.emit e = .next s := by
  simp [State.emit, h]

/-- Everything `emit` can do. -/
theorem State.emit_cases {s t : State} {e : Event} (h : s.emit e = .next t) :
    (s.enabled = true ∧ s.answered e = true ∧ t = s.seqStep e) ∨
    (s.enabled = true ∧ s.answered e = false ∧ t = s.await e) ∨
    (s.enabled = false ∧ t = s) := by
  unfold State.emit at h
  split at h
  · split at h
    · cases h; exact .inl ⟨‹_›, ‹_›, rfl⟩
    · rename_i he ha
      cases h; exact .inr (.inl ⟨he, by simpa using ha, rfl⟩)
  · rename_i he
    cases h; exact .inr (.inr ⟨by simpa using he, rfl⟩)

/-- `emit` always answers. -/
theorem State.emit_next (e : Event) : ∃ t, s.emit e = .next t := by
  unfold State.emit
  split
  · split <;> exact ⟨_, rfl⟩
  · exact ⟨_, rfl⟩

/-! ### Acceptance -/

/-- A ready channel accepts. -/
theorem State.accept_ready {s : State} (f : State → State) (h : s.ready = true) : s.accept f = .next (f s) := by
  simp [State.accept, h]

/-- A channel that is not ready changes nothing. -/
theorem State.accept_waits {s : State} (f : State → State) (h : s.ready = false) : s.accept f = .next s := by
  simp [State.accept, h]

/-- Everything `accept` can do. -/
theorem State.accept_cases {s t : State} {f : State → State} (h : s.accept f = .next t) :
    (s.ready = true ∧ t = f s) ∨ (s.ready = false ∧ t = s) := by
  unfold State.accept at h
  split at h
  · cases h; exact .inl ⟨‹_›, rfl⟩
  · cases h; exact .inr ⟨Bool.eq_false_iff.mpr ‹_›, rfl⟩

/-- `accept` never stops. -/
theorem State.accept_next (f : State → State) : ∃ t, s.accept f = .next t := by
  unfold State.accept
  split <;> exact ⟨_, rfl⟩

theorem State.ready_iff {s : State} : s.ready = true ↔ s.op = .idle ∧ s.fault = false := by
  simp [State.ready]

theorem State.enabled_iff {s : State} : s.enabled = true ↔ s.op ≠ .idle ∧ s.fault = false := by
  simp [State.enabled]

/-! ### The fault entry -/

@[simp] theorem State.raise_cfg (c : FCode) (n : Nat) : (s.raise c n).cfg = s.cfg := rfl
@[simp] theorem State.raise_op (c : FCode) (n : Nat) : (s.raise c n).op = s.op := rfl
@[simp] theorem State.raise_row (c : FCode) (n : Nat) : (s.raise c n).row = s.row := rfl
@[simp] theorem State.raise_stepNo (c : FCode) (n : Nat) : (s.raise c n).stepNo = s.stepNo := rfl
@[simp] theorem State.raise_lenR (c : FCode) (n : Nat) : (s.raise c n).lenR = s.lenR := rfl
@[simp] theorem State.raise_life (c : FCode) (n : Nat) : (s.raise c n).life = s.life := rfl
@[simp] theorem State.raise_initialized (c : FCode) (n : Nat) : (s.raise c n).initialized = s.initialized := rfl
@[simp] theorem State.raise_dc (c : FCode) (n : Nat) : (s.raise c n).dc = s.dc := rfl
@[simp] theorem State.raise_res (c : FCode) (n : Nat) : (s.raise c n).res = s.res := rfl
@[simp] theorem State.raise_fault (c : FCode) (n : Nat) : (s.raise c n).fault = true := rfl
@[simp] theorem State.raise_fCode (c : FCode) (n : Nat) : (s.raise c n).fCode = c := rfl
@[simp] theorem State.raise_fInfo (c : FCode) (n : Nat) : (s.raise c n).fInfo = n := rfl
@[simp] theorem State.raise_fb (c : FCode) (n : Nat) : (s.raise c n).fb = s.fb := rfl
@[simp] theorem State.raise_host (c : FCode) (n : Nat) : (s.raise c n).host = s.host := rfl
@[simp] theorem State.raise_rstIn (c : FCode) (n : Nat) : (s.raise c n).rstIn = s.rstIn := rfl
@[simp] theorem State.raise_trace (c : FCode) (n : Nat) : (s.raise c n).trace = s.trace := rfl
@[simp] theorem State.raise_par (c : FCode) (n : Nat) : (s.raise c n).par = s.par := rfl
@[simp] theorem State.raise_freeIx (c : FCode) (n : Nat) : (s.raise c n).freeIx = s.freeIx := rfl
@[simp] theorem State.raise_handed (c : FCode) (n : Nat) : (s.raise c n).handed = s.handed := rfl
@[simp] theorem State.raise_env (c : FCode) (n : Nat) : (s.raise c n).env = s.env := rfl

/-! ### The operands -/

/-- A data slot that has not been read sends the reversal of what it reads (42_sequencer.md R154). -/
theorem State.slotByte_unread {s : State} (h : s.handed = none) (read : Byte) : s.slotByte read = rev8 read := by
  simp [State.slotByte, h]

/-- A data slot that has been read sends the byte it has (20_memory.md R61). -/
theorem State.slotByte_read {s : State} {b : Byte} (h : s.handed = some b) (read : Byte) : s.slotByte read = b := by
  simp [State.slotByte, h]

/-- The byte of a one-byte command, wherever the position stands (40_cmdenc.md R100). -/
theorem State.commandByte_one {s : State} {c : Cmd} (h : (s.par.table.entry c).kind = .one) (p : Byte) :
    s.commandByte c p = enc1 s.par.table c p := by
  simp [State.commandByte, h]

/-- The address byte of a two-byte command (R101). -/
theorem State.commandByte_address {s : State} {c : Cmd} (h : (s.par.table.entry c).kind = .two)
    (hv : s.atValueByte = false) (p : Byte) : s.commandByte c p = (s.par.table.entry c).tag := by
  simp [State.commandByte, h, hv, enc2]

/-- The value byte of a two-byte command (R101). -/
theorem State.commandByte_value {s : State} {c : Cmd} (h : (s.par.table.entry c).kind = .two)
    (hv : s.atValueByte = true) (p : Byte) : s.commandByte c p = p &&& (s.par.table.entry c).mask := by
  simp [State.commandByte, h, hv, enc2]

end Sys2Proof.Machine
end

