-- ==== Sys2Proof/Laws/Exec.lean ====
section
/-! SUPPORT. Everything an instruction, and everything a step, can do. -/

namespace Sys2Proof.Machine

/-- The meaning of a command is the sending of the byte that the position names. -/
theorem exec_command {i : Instr} {c : Cmd} {p : Byte} (h : i.command? = some (c, p)) (s : State) :
    exec i s = s.sendCommand c p := by
  cases i <;> cases h <;> rfl

/-- A command's instruction carries the command. -/
theorem command_toInstr (c : Cmd) (p : Byte) :
    (c.toInstr p).command? = some (c, if c = .dispOff ∨ c = .dispOn then 0 else p) := by
  cases c <;> rfl

/-- Everything an instruction can do when it answers a next state: nothing, where it waits for the channel or SEQ has no
step; one event sent, in which the command and data bytes are `tx` events; waiting in that event for an environment that
does not answer; the fault of a data slot; the acceptance of a request. -/
theorem exec_cases {i : Instr} {s t : State} (h : exec i s = .next t) :
    t = s ∨
    (s.enabled = true ∧ ∃ c p, i.command? = some (c, p) ∧ s.answered (.tx .command (s.commandByte c p)) = true ∧
      t = s.seqStep (.tx .command (s.commandByte c p))) ∨
    (s.enabled = true ∧ ∃ d, i = .data d ∧ s.answered (.tx .data d) = true ∧ t = s.seqStep (.tx .data d)) ∨
    (s.enabled = true ∧ ∃ e, s.answered e = false ∧ t = s.await e ∧
      ((∃ c p, i.command? = some (c, p) ∧ e = .tx .command (s.commandByte c p)) ∨ ∃ d, i = .data d ∧ e = .tx .data d)) ∨
    (s.enabled = true ∧ s.atDataSlot = true ∧ s.lenR ≤ s.dataOffset ∧ (∃ d, i = .data d) ∧
      t = s.raise .fbOutOfBounds s.dataOffset) ∨
    (s.ready = true ∧
      ((∃ cfg, i = .init cfg ∧ t = ((s.latchCfg cfg).setLife .resetting).setPc .init 0 0) ∨
       (i = .deinit ∧ t = s.setPc .deinit 0 0) ∨
       (∃ len, i = .display len ∧ t = (s.latchLen len).setPc .display 0 0))) := by
  have hcmd : ∀ c p, i.command? = some (c, p) → exec i s = s.emit (.tx .command (s.commandByte c p)) :=
    fun c p hc => exec_command hc s
  rcases hi : i.command? with _ | ⟨c, p⟩
  · cases i with
    | data d =>
      simp only [exec, execData] at h
      split at h
      · rename_i hc
        simp only [Bool.and_eq_true, decide_eq_true_eq] at hc
        cases h
        exact .inr (.inr (.inr (.inr (.inl ⟨hc.1.1, hc.1.2, hc.2, ⟨d, rfl⟩, rfl⟩))))
      · rcases State.emit_cases h with ⟨he, ha, rfl⟩ | ⟨he, ha, rfl⟩ | ⟨-, rfl⟩
        · exact .inr (.inr (.inl ⟨he, d, rfl, ha, rfl⟩))
        · exact .inr (.inr (.inr (.inl ⟨he, _, ha, rfl, .inr ⟨d, rfl, rfl⟩⟩)))
        · exact .inl rfl
    | nop =>
      rcases State.accept_cases (f := id) h with ⟨-, rfl⟩ | ⟨-, rfl⟩ <;> exact .inl rfl
    | init cfg =>
      simp only [exec, execInit] at h
      rcases State.accept_cases h with ⟨hr, rfl⟩ | ⟨-, rfl⟩
      · exact .inr (.inr (.inr (.inr (.inr ⟨hr, .inl ⟨cfg, rfl, rfl⟩⟩))))
      · exact .inl rfl
    | deinit =>
      simp only [exec, execDeinit] at h
      rcases State.accept_cases h with ⟨hr, rfl⟩ | ⟨-, rfl⟩
      · exact .inr (.inr (.inr (.inr (.inr ⟨hr, .inr (.inl ⟨rfl, rfl⟩)⟩))))
      · exact .inl rfl
    | display len =>
      simp only [exec, execDisplay] at h
      rcases State.accept_cases h with ⟨hr, rfl⟩ | ⟨-, rfl⟩
      · exact .inr (.inr (.inr (.inr (.inr ⟨hr, .inr (.inr ⟨len, rfl, rfl⟩)⟩))))
      · exact .inl rfl
    | _ => cases hi
  · rw [hcmd c p hi] at h
    rcases State.emit_cases h with ⟨he, ha, rfl⟩ | ⟨he, ha, rfl⟩ | ⟨-, rfl⟩
    · exact .inr (.inl ⟨he, c, p, rfl, ha, rfl⟩)
    · exact .inr (.inr (.inr (.inl ⟨he, _, ha, rfl, .inl ⟨c, p, rfl, rfl⟩⟩)))
    · exact .inl rfl

/-- No instruction stops. -/
theorem exec_next (i : Instr) (s : State) : ∃ t, exec i s = .next t := by
  rcases hi : i.command? with _ | ⟨c, p⟩
  · cases i with
    | data d =>
      simp only [exec, execData]
      split
      · exact ⟨_, rfl⟩
      · exact State.emit_next s _
    | nop => exact State.accept_next s _
    | init cfg => simpa only [exec, execInit] using State.accept_next s _
    | deinit => simpa only [exec, execDeinit] using State.accept_next s _
    | display len => simpa only [exec, execDisplay] using State.accept_next s _
    | _ => cases hi
  · rw [exec_command hi]
    exact State.emit_next s _

/-! ### The step -/

/-- The reset input wins (60_exceptions.md R186). -/
theorem step_reset {s : State} (h : s.rstIn = true) : step s = .next s.blockReset := by
  simp [step, State.transition, h]

/-- A faulted block takes no step (60_exceptions.md R183). -/
theorem step_faulted {s : State} (hr : s.rstIn = false) (h : s.fault = true) : step s = .next s := by
  simp [step, State.transition, State.run, hr, h]

/-- A step of a block that is neither reset nor faulted performs what is fetched. -/
theorem step_fetch {s : State} (hr : s.rstIn = false) (hf : s.fault = false) :
    step s = match s.fetch with
      | .wait => .next s
      | .instr i => exec i s.afterFetch
      | .pulse e => s.emit e
      | .nothing => .fault .noEventAtPosition := by
  have h1 : step s = s.run := by simp [step, State.transition, hr]
  exact h1.trans (if_neg (by simp [hf]))

/-- An idle block with no request stays as it is. -/
theorem step_idle {s : State} (hr : s.rstIn = false) (hf : s.fault = false) (ho : s.op = .idle) (hh : s.host = []) :
    step s = .next s := by
  rw [step_fetch hr hf]
  simp [State.fetch, State.fetchRequest, ho, hh]

/-- An idle block takes the request on the channel. -/
theorem step_request {s : State} {w : ReqWord} {rest : List ReqWord} (hr : s.rstIn = false) (hf : s.fault = false)
    (ho : s.op = .idle) (hh : s.host = w :: rest) : step s = exec (decodeRequest w) s.takeRequest := by
  rw [step_fetch hr hf]
  simp [State.fetch, State.fetchRequest, State.afterFetch, ho, hh]

/-- A busy block takes nothing off the channel. -/
theorem afterFetch_busy {s : State} (ho : s.op ≠ .idle) : s.afterFetch = s := by
  unfold State.afterFetch
  split <;> first | rfl | contradiction

/-- SEQ never fetches a request: while the block is busy a fetched instruction is a command or a data byte. -/
theorem fetch_busy {s : State} {i : Instr} (ho : s.op ≠ .idle) (h : s.fetch = .instr i) :
    (∃ c p, i.command? = some (c, p)) ∨ ∃ d, i = .data d := by
  have hslot : s.fetchSlot = .instr i → ∃ c p, i.command? = some (c, p) := by
    intro h
    unfold State.fetchSlot at h
    split at h
    · cases h
    · cases h
    · cases h
      exact ⟨_, _, command_toInstr _ _⟩
  unfold State.fetch at h
  split at h
  · contradiction
  · exact .inl (hslot h)
  · exact .inl (hslot h)
  · unfold State.fetchDisplay at h
    split at h
    · split at h <;> cases h
      · exact .inl ⟨_, _, rfl⟩
      · exact .inl ⟨_, _, rfl⟩
      · exact .inl ⟨_, _, rfl⟩
      · exact .inr ⟨_, rfl⟩
    · cases h

/-- A data byte is fetched at a data slot of DISPLAY only, and it is the slot's byte. -/
theorem fetch_data {s : State} {d : Byte} (ho : s.op ≠ .idle) (h : s.fetch = .instr (.data d)) :
    s.op = .display ∧ 3 ≤ s.stepNo ∧ s.stepNo ≤ s.par.wb + 2 ∧ s.row.toNat < s.par.height ∧
    d = s.slotByte (s.fb.read s.dataOffset) := by
  have hslot : s.fetchSlot ≠ .instr (.data d) := by
    unfold State.fetchSlot
    split
    · simp
    · simp
    · rename_i c v _
      cases c <;> simp [Cmd.toInstr]
  unfold State.fetch at h
  split at h
  · contradiction
  · exact absurd h hslot
  · exact absurd h hslot
  · rename_i hop
    unfold State.fetchDisplay at h
    split at h
    · rename_i hc
      split at h
      · cases h
      · cases h
      · cases h
      · rename_i h0 h1 h2
        cases h
        refine ⟨hop, ?_, hc.2, hc.1, rfl⟩
        have a0 : s.stepNo ≠ 0 := h0
        have a1 : s.stepNo ≠ 1 := h1
        have a2 : s.stepNo ≠ 2 := h2
        omega
    · cases h

/-- At a data slot nothing but a data byte is fetched. -/
theorem fetch_atDataSlot {s : State} (h : s.atDataSlot = true) :
    s.fetch = .nothing ∨ s.fetch = .instr (.data (s.slotByte (s.fb.read s.dataOffset))) := by
  have hc : s.op = .display ∧ 3 ≤ s.stepNo := by simpa [State.atDataSlot] using h
  simp only [State.fetch, hc.1, State.fetchDisplay]
  split
  · split
    · rename_i h0; omega
    · rename_i h1; omega
    · rename_i h2; omega
    · exact .inr rfl
  · exact .inl rfl

/-- A request is no command and no data byte. -/
theorem decodeRequest_command (w : ReqWord) : (decodeRequest w).command? = none ∧ ∀ d, decodeRequest w ≠ .data d := by
  unfold decodeRequest
  split <;> simp [Instr.command?]

/-- Only a busy block has a next event. -/
theorem op_of_nextEvent {s : State} {e : Event} (h : s.nextEvent = some e) : s.op ≠ .idle := by
  intro ho
  have hf : s.fetch = s.fetchRequest := by simp [State.fetch, ho]
  cases hh : s.host with
  | nil => simp [State.nextEvent, hf, State.fetchRequest, hh] at h
  | cons w rest =>
    obtain ⟨h1, h2⟩ := decodeRequest_command w
    simp only [State.nextEvent, hf, State.fetchRequest, hh, h1] at h
    cases h

/-- Where the position names an event, and a data slot's offset is inside the buffer, the step is `emit` of the event. -/
theorem step_nextEvent {s : State} {e : Event} (hr : s.rstIn = false) (hf : s.fault = false)
    (hin : s.atDataSlot = true → s.dataOffset < s.lenR) (he : s.nextEvent = some e) : step s = s.emit e := by
  have ho := op_of_nextEvent he
  rw [step_fetch hr hf, afterFetch_busy ho]
  unfold State.nextEvent at he
  split at he
  · cases he
  · cases he
    simp [*]
  · cases he
  · rename_i i hfe
    simp only [hfe]
    rcases fetch_busy ho hfe with ⟨c, p, hc⟩ | ⟨d, rfl⟩
    · simp only [hc] at he
      cases he
      exact exec_command hc s
    · simp only [Instr.command?] at he
      cases he
      obtain ⟨hop, h3, -⟩ := fetch_data ho hfe
      have hlt := hin (by simp [State.atDataSlot, hop, h3])
      exact if_neg (by simp [Nat.not_le.mpr hlt])

/-- The events that the plans of INIT and DEINIT name are those of the reset pulse. -/
theorem slot_pulse {s : State} {e : Event} (h : s.slot? = some (.pulse e)) : e ∈ resetPulse s.par := by
  have hcmd : ∀ c, Slot.pulse e ∉ cmdSlots s.par.table c := fun c => by
    unfold cmdSlots
    split <;> simp
  unfold State.slot? at h
  split at h
  · have hm := List.mem_of_getElem? h
    simp only [initPlan, List.mem_append, List.mem_flatMap] at hm
    rcases hm with ((hm | hm) | ⟨c, -, hm⟩) | hm
    · simpa using hm
    · simp at hm
    · exact absurd hm (hcmd c)
    · simp at hm
  · have hm := List.mem_of_getElem? h
    simp only [deinitPlan, List.mem_append] at hm
    rcases hm with hm | hm
    · simpa using hm
    · simp at hm
  · cases h
  · cases h

/-- A data event is the event of a data slot only, with the slot's byte. -/
theorem nextEvent_data {s : State} {b : Byte} (h : s.nextEvent = some (.tx .data b)) :
    s.atDataSlot = true ∧ b = s.slotByte (s.fb.read s.dataOffset) := by
  have ho := op_of_nextEvent h
  unfold State.nextEvent at h
  split at h
  · cases h
  · rename_i e hfe
    cases h
    have hslot : s.fetchSlot ≠ .pulse (.tx .data b) := by
      unfold State.fetchSlot
      split
      · simp
      · rename_i e hs
        intro he
        cases he
        have := slot_pulse hs
        simp [resetPulse] at this
      · simp
    unfold State.fetch at hfe
    split at hfe
    · contradiction
    · exact absurd hfe hslot
    · exact absurd hfe hslot
    · unfold State.fetchDisplay at hfe
      split at hfe
      · split at hfe <;> cases hfe
      · cases hfe
  · cases h
  · rename_i i hfe
    rcases fetch_busy ho hfe with ⟨c, p, hc⟩ | ⟨d, rfl⟩
    · simp [hc] at h
    · obtain ⟨hop, h3, -, -, hd⟩ := fetch_data ho hfe
      simp only [Instr.command?] at h
      cases h
      exact ⟨by simp [State.atDataSlot, hop, h3], hd⟩

/-- A block that waits in an event still has that event next. -/
theorem nextEvent_await {s : State} {e : Event} (h : s.nextEvent = some e) : (s.await e).nextEvent = some e := by
  rcases e with _ | _ | ⟨_ | _, b⟩
  · exact h
  · exact h
  · exact h
  · cases hb : s.byteAtHand with
    | false => rwa [State.await_data_unread b hb]
    | true =>
      rw [State.await_data_read b hb]
      obtain ⟨hslot, -⟩ := nextEvent_data h
      have hc : s.op = .display ∧ 3 ≤ s.stepNo := by simpa [State.atDataSlot] using hslot
      rcases fetch_atDataSlot (s := { s with dc := .data, handed := some b }) hslot with hx | hx
      · exfalso
        rcases fetch_atDataSlot hslot with hy | hy
        · simp [State.nextEvent, hy] at h
        · simp only [State.fetch, hc.1, State.fetchDisplay] at hx hy
          split at hx
          · split at hx <;> cases hx
          · rename_i hn
            rw [if_neg hn] at hy
            cases hy
      · simp [State.nextEvent, hx, Instr.command?, State.slotByte]

/-- Waiting makes nobody answer. -/
theorem answered_await {s : State} {e : Event} (h : s.answered e = false) : (s.await e).answered e = false := by
  rcases e with _ | _ | ⟨_ | _, b⟩
  · exact h
  · exact h
  · exact h
  · cases hb : s.byteAtHand with
    | false => rwa [State.await_data_unread b hb]
    | true =>
      have ht : s.env.transport = false := by simpa [State.answered, hb] using h
      simp [State.answered, ht]

/-- Everything a step can do when it answers a next state. A byte of the frame is sent, or waited for, only where its
offset is inside the buffer. -/
theorem step_cases {s t : State} (h : step s = .next t) :
    (s.rstIn = true ∧ t = s.blockReset) ∨
    (s.rstIn = false ∧ t = s ∧ (s.fault = true ∨ s.op = .idle ∧ s.host = [])) ∨
    (s.rstIn = false ∧ s.fault = false ∧ s.op = .idle ∧
      ∃ w rest, s.host = w :: rest ∧ exec (decodeRequest w) s.takeRequest = .next t) ∨
    (s.rstIn = false ∧ s.fault = false ∧ s.op ≠ .idle ∧ (s.atDataSlot = true → s.dataOffset < s.lenR) ∧
      ∃ e, s.nextEvent = some e ∧ s.answered e = true ∧ t = s.seqStep e) ∨
    (s.rstIn = false ∧ s.fault = false ∧ s.op ≠ .idle ∧ (s.atDataSlot = true → s.dataOffset < s.lenR) ∧
      ∃ e, s.nextEvent = some e ∧ s.answered e = false ∧ t = s.await e) ∨
    (s.rstIn = false ∧ s.fault = false ∧ s.op = .display ∧ 3 ≤ s.stepNo ∧ s.stepNo ≤ s.par.wb + 2 ∧
      s.row.toNat < s.par.height ∧ s.lenR ≤ s.dataOffset ∧ t = s.raise .fbOutOfBounds s.dataOffset) := by
  cases hr : s.rstIn with
  | true =>
    rw [step_reset hr] at h
    cases h
    exact .inl ⟨rfl, rfl⟩
  | false =>
    cases hf : s.fault with
    | true =>
      rw [step_faulted hr hf] at h
      cases h
      exact .inr (.inl ⟨rfl, rfl, .inl rfl⟩)
    | false =>
      by_cases ho : s.op = .idle
      · cases hh : s.host with
        | nil =>
          rw [step_idle hr hf ho hh] at h
          cases h
          exact .inr (.inl ⟨rfl, rfl, .inr ⟨ho, rfl⟩⟩)
        | cons w rest =>
          rw [step_request hr hf ho hh] at h
          exact .inr (.inr (.inl ⟨rfl, rfl, ho, w, rest, rfl, h⟩))
      · have hen : s.enabled = true := State.enabled_iff.mpr ⟨ho, hf⟩
        rw [step_fetch hr hf] at h
        rcases hfe : s.fetch with _ | i | e | _
        · rw [hfe] at h
          exfalso
          unfold State.fetch at hfe
          split at hfe
          · contradiction
          all_goals
            first
              | (unfold State.fetchSlot at hfe; split at hfe <;> cases hfe)
              | (unfold State.fetchDisplay at hfe; split at hfe <;> (try split at hfe) <;> cases hfe)
        · rw [hfe] at h
          simp only [afterFetch_busy ho] at h
          have hnr : s.ready = false := by simp [State.ready, ho]
          rcases fetch_busy ho hfe with ⟨c, p, hc⟩ | ⟨d, rfl⟩
          · have hin : s.atDataSlot = true → s.dataOffset < s.lenR := fun hd => by
              rcases fetch_atDataSlot hd with hx | hx <;> rw [hx] at hfe <;> cases hfe
              cases hc
            rw [exec_command hc] at h
            rcases State.emit_cases h with ⟨-, ha, rfl⟩ | ⟨-, ha, rfl⟩ | ⟨he, -⟩
            · refine .inr (.inr (.inr (.inl ⟨rfl, rfl, ho, hin, _, ?_, ha, rfl⟩)))
              simp [State.nextEvent, hfe, hc]
            · refine .inr (.inr (.inr (.inr (.inl ⟨rfl, rfl, ho, hin, _, ?_, ha, rfl⟩))))
              simp [State.nextEvent, hfe, hc]
            · rw [hen] at he; cases he
          · obtain ⟨hop, h3, hw, hrow, rfl⟩ := fetch_data ho hfe
            simp only [exec, execData] at h
            split at h
            · rename_i hc
              simp only [Bool.and_eq_true, decide_eq_true_eq] at hc
              cases h
              exact .inr (.inr (.inr (.inr (.inr ⟨rfl, rfl, hop, h3, hw, hrow, hc.2, rfl⟩))))
            · rename_i hc
              have hin : s.atDataSlot = true → s.dataOffset < s.lenR := fun hd => by
                simpa [hen, hd] using hc
              rcases State.emit_cases h with ⟨-, ha, rfl⟩ | ⟨-, ha, rfl⟩ | ⟨he, -⟩
              · refine .inr (.inr (.inr (.inl ⟨rfl, rfl, ho, hin, _, ?_, ha, rfl⟩)))
                simp [State.nextEvent, hfe, Instr.command?]
              · refine .inr (.inr (.inr (.inr (.inl ⟨rfl, rfl, ho, hin, _, ?_, ha, rfl⟩))))
                simp [State.nextEvent, hfe, Instr.command?]
              · rw [hen] at he; cases he
        · have hin : s.atDataSlot = true → s.dataOffset < s.lenR := fun hd => by
            rcases fetch_atDataSlot hd with hx | hx <;> rw [hx] at hfe <;> cases hfe
          rw [hfe] at h
          rcases State.emit_cases h with ⟨-, ha, rfl⟩ | ⟨-, ha, rfl⟩ | ⟨he, -⟩
          · refine .inr (.inr (.inr (.inl ⟨rfl, rfl, ho, hin, _, ?_, ha, rfl⟩)))
            simp [State.nextEvent, hfe]
          · refine .inr (.inr (.inr (.inr (.inl ⟨rfl, rfl, ho, hin, _, ?_, ha, rfl⟩))))
            simp [State.nextEvent, hfe]
          · rw [hen] at he; cases he
        · rw [hfe] at h
          cases h

end Sys2Proof.Machine
end

