-- ==== Sys2Proof/Laws/Memory.lean ====
section
/-! SUPPORT. The laws of the frame buffer: a read after a store, and every operation keeps the canonical form. -/

namespace Sys2Proof.Machine

/-- Every offset of `m` lies above `n`. -/
def Memory.above (n : Nat) (m : Memory) : Prop := ∀ c ∈ m, n < c.1

theorem Memory.wf_cons (a : Nat) (b : Byte) (m : Memory) :
    Memory.wf ((a, b) :: m) = true ↔ b ≠ Memory.unlisted ∧ Memory.above a m ∧ Memory.wf m = true := by
  induction m generalizing a b with
  | nil => simp [Memory.wf, Memory.above]
  | cons c m ih =>
    obtain ⟨a', b'⟩ := c
    have step : Memory.wf ((a, b) :: (a', b') :: m) = true ↔
        b ≠ Memory.unlisted ∧ a < a' ∧ Memory.wf ((a', b') :: m) = true := by
      simp [Memory.wf, and_assoc]
    rw [step, ih a' b']
    constructor
    · rintro ⟨hb, haa, hb', hm, hw⟩
      refine ⟨hb, ?_, hb', hm, hw⟩
      intro c hc
      rcases List.mem_cons.mp hc with rfl | hc
      · exact haa
      · exact Nat.lt_trans haa (hm c hc)
    · rintro ⟨hb, ha, hw⟩
      exact ⟨hb, ha (a', b') (List.mem_cons_self ..), hw⟩

/-- An offset below every listed one reads as unlisted. -/
theorem Memory.read_of_above {m : Memory} {off : Nat} (h : Memory.above off m) :
    Memory.read m off = Memory.unlisted := by
  induction m with
  | nil => rfl
  | cons c m ih =>
    have h1 : off < c.1 := h c (List.mem_cons_self ..)
    have h2 : ¬ off = c.1 := by omega
    simp only [Memory.read, h2, if_false]
    exact ih fun d hd => h d (List.mem_cons_of_mem _ hd)

theorem Memory.above_erase {m : Memory} {n : Nat} (off : Nat) (h : Memory.above n m) :
    Memory.above n (Memory.erase m off) := by
  induction m with
  | nil => exact h
  | cons c m ih =>
    have hm : Memory.above n m := fun d hd => h d (List.mem_cons_of_mem _ hd)
    simp only [Memory.erase]
    split
    · exact hm
    · intro d hd
      rcases List.mem_cons.mp hd with rfl | hd
      · exact h _ (List.mem_cons_self ..)
      · exact ih hm d hd

theorem Memory.above_insert {m : Memory} {n off : Nat} (v : Byte) (h : Memory.above n m) (ho : n < off) :
    Memory.above n (Memory.insert m off v) := by
  induction m with
  | nil =>
    intro d hd
    rcases List.mem_singleton.mp hd with rfl
    exact ho
  | cons c m ih =>
    have hm : Memory.above n m := fun d hd => h d (List.mem_cons_of_mem _ hd)
    have hc : n < c.1 := h c (List.mem_cons_self ..)
    simp only [Memory.insert]
    split
    · intro d hd
      rcases List.mem_cons.mp hd with rfl | hd
      · exact ho
      · exact h d hd
    · split
      · intro d hd
        rcases List.mem_cons.mp hd with rfl | hd
        · exact ho
        · exact hm d hd
      · intro d hd
        rcases List.mem_cons.mp hd with rfl | hd
        · exact hc
        · exact ih hm d hd

theorem Memory.wf_erase {m : Memory} (off : Nat) (h : Memory.wf m = true) :
    Memory.wf (Memory.erase m off) = true := by
  induction m with
  | nil => exact h
  | cons c m ih =>
    obtain ⟨hb, ha, hm⟩ := (Memory.wf_cons c.1 c.2 m).mp h
    simp only [Memory.erase]
    split
    · exact hm
    · exact (Memory.wf_cons ..).mpr ⟨hb, Memory.above_erase off ha, ih hm⟩

theorem Memory.wf_insert {m : Memory} (off : Nat) {v : Byte} (hv : v ≠ Memory.unlisted) (h : Memory.wf m = true) :
    Memory.wf (Memory.insert m off v) = true := by
  induction m with
  | nil => exact (Memory.wf_cons ..).mpr ⟨hv, fun _ hd => absurd hd (List.not_mem_nil), rfl⟩
  | cons c m ih =>
    obtain ⟨hb, ha, hm⟩ := (Memory.wf_cons c.1 c.2 m).mp h
    simp only [Memory.insert]
    split
    · rename_i hlt
      refine (Memory.wf_cons ..).mpr ⟨hv, ?_, h⟩
      intro d hd
      rcases List.mem_cons.mp hd with rfl | hd
      · exact hlt
      · exact Nat.lt_trans hlt (ha d hd)
    · split
      · rename_i heq
        subst heq
        exact (Memory.wf_cons ..).mpr ⟨hv, ha, hm⟩
      · exact (Memory.wf_cons ..).mpr ⟨hb, Memory.above_insert v ha (by omega), ih hm⟩

/-- A store keeps the canonical form. -/
theorem Memory.wf_write {m : Memory} (off : Nat) (v : Byte) (h : Memory.wf m = true) :
    Memory.wf (m.write off v) = true := by
  unfold Memory.write
  split
  · exact Memory.wf_erase off h
  · exact Memory.wf_insert off ‹_› h

theorem Memory.read_erase {m : Memory} (h : Memory.wf m = true) (off a : Nat) :
    Memory.read (Memory.erase m off) a = if a = off then Memory.unlisted else Memory.read m a := by
  induction m with
  | nil => simp [Memory.erase, Memory.read]
  | cons c m ih =>
    obtain ⟨-, ha, hm⟩ := (Memory.wf_cons c.1 c.2 m).mp h
    simp only [Memory.erase]
    split
    · rename_i hoff
      subst hoff
      by_cases hao : a = c.1
      · simp only [hao, if_true]
        exact Memory.read_of_above ha
      · simp [Memory.read, hao]
    · rename_i hoff
      simp only [Memory.read, ih hm]
      by_cases hac : a = c.1
      · simp [hac, Ne.symm hoff]
      · simp [hac]

theorem Memory.read_insert {m : Memory} (off a : Nat) (v : Byte) :
    Memory.read (Memory.insert m off v) a = if a = off then v else Memory.read m a := by
  induction m with
  | nil => simp [Memory.insert, Memory.read]
  | cons c m ih =>
    simp only [Memory.insert]
    split
    · simp [Memory.read]
    · split
      · rename_i hoff
        subst hoff
        by_cases hac : a = c.1 <;> simp [Memory.read, hac]
      · rename_i hoff
        simp only [Memory.read, ih]
        by_cases hac : a = c.1
        · simp [hac, Ne.symm hoff]
        · simp [hac]

/-- What a buffer in canonical form holds after a store. -/
theorem Memory.read_write {m : Memory} (h : Memory.wf m = true) (off a : Nat) (v : Byte) :
    (m.write off v).read a = if a = off then v else m.read a := by
  unfold Memory.write
  split
  · rename_i hv
    rw [hv]
    exact Memory.read_erase h off a
  · exact Memory.read_insert off a v

/-- Two buffers in canonical form that read alike everywhere are equal. -/
theorem Memory.ext_of_read {m n : Memory} (hm : Memory.wf m = true) (hn : Memory.wf n = true)
    (h : ∀ a, m.read a = n.read a) : m = n := by
  induction m generalizing n with
  | nil =>
    cases n with
    | nil => rfl
    | cons d n =>
      obtain ⟨hb, -, -⟩ := (Memory.wf_cons d.1 d.2 n).mp hn
      have := h d.1
      simp [Memory.read] at this
      exact absurd this.symm hb
  | cons c m ih =>
    obtain ⟨hb, ha, hm'⟩ := (Memory.wf_cons c.1 c.2 m).mp hm
    cases n with
    | nil =>
      have := h c.1
      simp [Memory.read] at this
      exact absurd this hb
    | cons d n =>
      obtain ⟨hb', ha', hn'⟩ := (Memory.wf_cons d.1 d.2 n).mp hn
      have hcd : c.1 = d.1 := by
        rcases Nat.lt_trichotomy c.1 d.1 with hlt | heq | hgt
        · have h1 := h c.1
          have h2 : Memory.read (d :: n) c.1 = Memory.unlisted :=
            Memory.read_of_above fun x hx => by
              rcases List.mem_cons.mp hx with rfl | hx
              · exact hlt
              · exact Nat.lt_trans hlt (ha' x hx)
          rw [h2] at h1
          simp [Memory.read] at h1
          exact absurd h1 hb
        · exact heq
        · have h1 := h d.1
          have h2 : Memory.read (c :: m) d.1 = Memory.unlisted :=
            Memory.read_of_above fun x hx => by
              rcases List.mem_cons.mp hx with rfl | hx
              · exact hgt
              · exact Nat.lt_trans hgt (ha x hx)
          rw [h2] at h1
          simp [Memory.read] at h1
          exact absurd h1.symm hb'
      have hval : c.2 = d.2 := by
        have h1 := h c.1
        simpa [Memory.read, hcd] using h1
      have hrest : m = n := by
        refine ih hm' hn' fun a => ?_
        by_cases hac : a = c.1
        · rw [hac, Memory.read_of_above ha, hcd, Memory.read_of_above ha']
        · have h1 := h a
          have had : ¬ a = d.1 := by rw [← hcd]; exact hac
          simpa [Memory.read, hac, had] using h1
      rw [hrest, Prod.ext hcd hval]

end Sys2Proof.Machine
end

