-- ==== Sys2Proof/Laws/PerInstr.lean ====
section
/-! SUPPORT. The family EncodedLength: an instruction's encoding holds as many COMMAND-mode bytes as the KIND of its
command says, and none if it is no command (30_encoding.md R70, R77). -/

namespace Sys2Proof

/-- The COMMAND-mode bytes of a packet. -/
def Packet.commandBytes : Packet → Nat
  | .command bytes => bytes.length
  | .data _ => 0
  | .request _ => 0

/-- The length of a command is a property of its row, not of its parameter (R70). -/
theorem encBytes_length (t : Table) (c : Cmd) (p : Byte) : (encBytes t c p).length = (t.entry c).length := by
  unfold encBytes Entry.length
  split <;> simp_all

/-- The length of an instruction is a property of its row. -/
def Laws.EncodedLength.Statement (i : Instr) : Prop :=
  ∀ t : Table, (encode t i).commandBytes = (i.command?.map fun cp => (t.entry cp.1).length).getD 0

theorem Laws.EncodedLength.setLowCol (p : Byte) : Laws.EncodedLength.Statement (.setLowCol p) :=
  fun t => encBytes_length t .setLowCol p
theorem Laws.EncodedLength.setHighCol (p : Byte) : Laws.EncodedLength.Statement (.setHighCol p) :=
  fun t => encBytes_length t .setHighCol p
theorem Laws.EncodedLength.setPage (p : Byte) : Laws.EncodedLength.Statement (.setPage p) :=
  fun t => encBytes_length t .setPage p
theorem Laws.EncodedLength.setStartLine (p : Byte) : Laws.EncodedLength.Statement (.setStartLine p) :=
  fun t => encBytes_length t .setStartLine p
theorem Laws.EncodedLength.setContrast (p : Byte) : Laws.EncodedLength.Statement (.setContrast p) :=
  fun t => encBytes_length t .setContrast p
theorem Laws.EncodedLength.setPolarity (p : Byte) : Laws.EncodedLength.Statement (.setPolarity p) :=
  fun t => encBytes_length t .setPolarity p
theorem Laws.EncodedLength.setMux (p : Byte) : Laws.EncodedLength.Statement (.setMux p) :=
  fun t => encBytes_length t .setMux p
theorem Laws.EncodedLength.setOffset (p : Byte) : Laws.EncodedLength.Statement (.setOffset p) :=
  fun t => encBytes_length t .setOffset p
theorem Laws.EncodedLength.setClock (p : Byte) : Laws.EncodedLength.Statement (.setClock p) :=
  fun t => encBytes_length t .setClock p
theorem Laws.EncodedLength.setCharge (p : Byte) : Laws.EncodedLength.Statement (.setCharge p) :=
  fun t => encBytes_length t .setCharge p
theorem Laws.EncodedLength.setVcom (p : Byte) : Laws.EncodedLength.Statement (.setVcom p) :=
  fun t => encBytes_length t .setVcom p
theorem Laws.EncodedLength.setDcdc (p : Byte) : Laws.EncodedLength.Statement (.setDcdc p) :=
  fun t => encBytes_length t .setDcdc p
theorem Laws.EncodedLength.dispOff : Laws.EncodedLength.Statement .dispOff :=
  fun t => encBytes_length t .dispOff 0
theorem Laws.EncodedLength.dispOn : Laws.EncodedLength.Statement .dispOn :=
  fun t => encBytes_length t .dispOn 0
theorem Laws.EncodedLength.data (d : Byte) : Laws.EncodedLength.Statement (.data d) := fun _ => rfl
theorem Laws.EncodedLength.nop : Laws.EncodedLength.Statement .nop := fun _ => rfl
theorem Laws.EncodedLength.init (cfg : Cfg) : Laws.EncodedLength.Statement (.init cfg) := fun _ => rfl
theorem Laws.EncodedLength.deinit : Laws.EncodedLength.Statement .deinit := fun _ => rfl
theorem Laws.EncodedLength.display (len : Nat) : Laws.EncodedLength.Statement (.display len) := fun _ => rfl

end Sys2Proof
end

