-- ==== Sys2Proof/Tests/Slice0.lean ====
section
/-! SUPPORT. Tests and witnesses. Expected values come from the spec: the worked examples of 95_test_vectors.md
(S1 to S11, programs P1 to P5) and the encodings of 30_encoding.md. -/

namespace Sys2Proof.Machine

set_option maxRecDepth 20000

/-! ### Helpers -/

/-- The next state of an outcome, where there is one. -/
def nextOf : Result → Option State
  | .next t => some t
  | .fault _ => none
  | .refused _ => none

/-- The events an outcome's next state holds. -/
def traceOf (r : Result) : Option (List Event) := (nextOf r).map fun t => t.trace

/-- Twelve bytes with bits outside the masks of the one-byte commands. -/
def cfgWide : Cfg := ⟨0x17, 0xF3, 0x25, 0xAE, 0x80, 0x03, 0x7F, 0x60, 0x50, 0x22, 0x35, 0x81⟩

/-- A block that runs INIT, at STEP n. -/
def inInit (n : Nat) : State :=
  { State.reset with op := .init, stepNo := n, cfg := cfgWide, life := if n ≤ 3 then .resetting else .config,
                     res := !(n == 1 || n == 2) }

/-- A block that runs DEINIT, at STEP n. -/
def inDeinit (n : Nat) : State :=
  { State.reset with op := .deinit, stepNo := n, life := .on, initialized := true, res := !(n == 1 || n == 2) }

/-- A block that runs DISPLAY of the frame of S7, at row r and slot n, with a buffer of `len` bytes. -/
def inDisplay (r : BitVec 8) (n len : Nat) : State :=
  { State.reset with op := .display, row := r, stepNo := n, lenR := len, fb := [(0, 0x80), (1, 0x01)] }

/-- The same block, faulted at the slot of offset 1. -/
def inFault : State :=
  { inDisplay 1 3 1 with fault := true, fCode := .fbOutOfBounds, fInfo := 1 }

/-- An idle block with requests waiting. -/
def waitingFor (ws : List ReqWord) : State := { State.reset with host := ws }

/-- The same block with an environment whose transport, timer and frame-buffer port answer as given. -/
def withEnv (transport timer fbPort : Bool) (s : State) : State := { s with env := ⟨transport, timer, fbPort⟩ }

/-- A block that has read the buffer byte of its data slot, and whose transport does not take the byte. -/
def atTransport (b : Byte) : State := { withEnv false true true (inDisplay 0 3 2) with dc := .data, handed := some b }

/-- The same block in an instantiation whose reset line is active high. -/
def activeHigh (s : State) : State := { s with par := { s.par with resAssert := true } }

/-- A table in which the first-byte sets of two commands meet. -/
def clashingTable : Table := { Table.default with setContrast := ⟨0xB1, .two, 0xFF⟩ }

/-! ### Well-formedness: each check refuses an ill-formed term -/

theorem test_wf_default : Table.default.wf = true ∧ Params.default.wf = true := by decide
theorem test_wf_table_overlap : ({ Table.default with setLowCol := ⟨0x01, .one, 0x0F⟩ } : Table).wf = false := by decide
theorem test_wf_table_clash : clashingTable.wf = false := by decide
theorem test_wf_disjoint : (⟨0xB0, .one, 0x0F⟩ : Entry).disjoint ⟨0xB1, .two, 0xFF⟩ = false := by decide
theorem test_wf_table_kind : ({ Table.default with setPage := ⟨0xB0, .two, 0xFF⟩ } : Table).wf = false := by decide
theorem test_wf_params_width : ({ Params.default with screenWidthBits := 0 } : Params).wf = false := by decide
theorem test_wf_params_height_zero : ({ Params.default with height := 0 } : Params).wf = false := by decide
theorem test_wf_params_height_257 : ({ Params.default with height := 257 } : Params).wf = false := by decide
theorem test_wf_params_lenw : ({ Params.default with height := 16, lenW := 4 } : Params).wf = false := by decide
theorem test_wf_params_table : ({ Params.default with table := clashingTable } : Params).wf = false := by decide
theorem test_wf_request : ReqWord.wf Params.default ⟨3, 0, 65536⟩ = false := by decide
theorem test_wf_commands :
    [Instr.setLowCol 0x10, .setHighCol 0x10, .setPage 0xF0, .setPolarity 0x02, .display 65536].all
      (fun i => !i.wf Params.default) = true := by decide
theorem test_wf_commands_legal :
    [Instr.setLowCol 0x0F, .setHighCol 0x0F, .setPage 0x0F, .setPolarity 0x01, .setContrast 0xFF, .display 65535].all
      (fun i => i.wf Params.default) = true := by decide
theorem test_wf_value_mask :
    Instr.wf { Params.default with table := { Table.default with setMux := ⟨0xA8, .two, 0x7F⟩ } } (.setMux 0x80) =
      false := by decide
theorem test_wf_memory : Memory.wf [(1, 0x01), (0, 0x80)] = false ∧ Memory.wf [(0, 0x00)] = false ∧
    Memory.wf [(0, 0x80), (0, 0x01)] = false ∧ Memory.wf [(0, 0x80), (1, 0x01)] = true := by decide

/-! ### Decoding: words written out from R71, R74 and R80 -/

/-- The word `0b0000_0111` of format N4 with tag 0 (S3). -/
theorem test_decode_setlowcol : decodeTableWord 8 0b00000111 = some (.setLowCol 0x07) := by decide
/-- Format N4 with tag 0x10 (S4). -/
theorem test_decode_sethighcol : decodeTableWord 8 0b00010011 = some (.setHighCol 0x03) := by decide
theorem test_decode_setpage : decodeTableWord 8 0b10110101 = some (.setPage 0x05) := by decide
theorem test_decode_setpolarity : decodeTableWord 8 0b10100111 = some (.setPolarity 0x01) := by decide
theorem test_decode_dispoff : decodeTableWord 8 0b10101110 = some .dispOff := by decide
theorem test_decode_dispon : decodeTableWord 8 0b10101111 = some .dispOn := by decide
theorem test_decode_setstartline : decodeTableWord 16 0b1101110010101110 = some (.setStartLine 0xAE) := by decide
theorem test_decode_setcontrast : decodeTableWord 16 0b1000000110000000 = some (.setContrast 0x80) := by decide
theorem test_decode_setmux : decodeTableWord 16 0b1010100001111111 = some (.setMux 0x7F) := by decide
theorem test_decode_setoffset : decodeTableWord 16 0b1101001101100000 = some (.setOffset 0x60) := by decide
theorem test_decode_setclock : decodeTableWord 16 0b1101010101010000 = some (.setClock 0x50) := by decide
theorem test_decode_setcharge : decodeTableWord 16 0b1101100100100010 = some (.setCharge 0x22) := by decide
theorem test_decode_setvcom : decodeTableWord 16 0b1101101111011011 = some (.setVcom 0xDB) := by decide
theorem test_decode_setdcdc : decodeTableWord 16 0b1010110110000001 = some (.setDcdc 0x81) := by decide
/-- 0x34 is no command's first byte, so the one-byte word is a data byte. -/
theorem test_decode_data : decodeTableWord 8 0b00110100 = some (.data 0x34) := by decide
theorem test_decode_requests : decodeTableWord 2 0b00 = some .nop ∧ decodeTableWord 2 0b01 = some (.init Cfg.zero) ∧
    decodeTableWord 2 0b10 = some .deinit ∧ decodeTableWord 2 0b11 = some (.display 0) := by decide
/-- REQ_CFG with byte k = k + 1. -/
theorem test_decode_init_bytes :
    decodeRequest ⟨1, 0x0C0B0A090807060504030201, 7⟩ = .init ⟨1, 2, 3, 4, 5, 6, 7, 8, 9, 10, 11, 12⟩ := by decide

theorem test_reject_no_byte : decode Table.default (.command []) = .error .noByte := by rfl
theorem test_reject_unknown : decode Table.default (.command [0x20]) = .error (.unknownFirstByte 0x20) := by rfl
theorem test_reject_no_value : decode Table.default (.command [0xDC]) = .error (.missingValueByte .setStartLine) := by rfl
theorem test_reject_left_over : decode Table.default (.command [0xAE, 0xAF]) = .error (.bytesLeftOver 1) := by rfl
theorem test_reject_table_word : decodeTableWord 16 0x0007 = none ∧ decodeTableWord 8 256 = none ∧
    decodeTableWord 24 0 = none := by decide

/-- A DATA byte between an address byte and its value byte is reported, and so is an end there (R84, R212). -/
theorem test_trace_decoder :
    decodeTrace Table.default [.tx .command 0xDC, .tx .data 0x01, .tx .command 0xAE, .tx .command 0x21, .tx .command 0x81] =
      [.strayData 0x01, .instr (.setStartLine 0xAE), .unknown 0x21, .unfinished .setContrast] := by decide

/-! ### BITREV and CMDENC -/

/-- S11 and 95_test_vectors.md section 2.1. -/
theorem test_rev8 : rev8 0x12 = 0x48 ∧ rev8 0x96 = 0x69 ∧ rev8 0xC7 = 0xE3 ∧ rev8 0x35 = 0xAC ∧ rev8 0xB0 = 0x0D := by
  decide
/-- Section 3.1: the bits that are dropped. -/
theorem test_enc1 :
    enc1 Table.default .setLowCol 0x10 = 0x00 ∧ enc1 Table.default .setLowCol 0xFF = 0x0F ∧
    enc1 Table.default .setHighCol 0xFF = 0x1F ∧ enc1 Table.default .setPage 0x1F = 0xBF ∧
    enc1 Table.default .setPolarity 0x02 = 0xA6 ∧ enc1 Table.default .dispOff 0xFF = 0xAE := by decide

/-! ### The commands and the data byte: one step each -/

/-- S3, from slot 1 of a row. -/
theorem test_exec_setlowcol : traceOf (exec (.setLowCol 0x07) (inDisplay 0 1 2)) = some [.tx .command 0x07] := by decide
theorem test_exec_sethighcol : traceOf (exec (.setHighCol 0x03) (inDisplay 0 2 2)) = some [.tx .command 0x13] := by decide
theorem test_exec_setpage : traceOf (exec (.setPage 0x1F) (inInit 7)) = some [.tx .command 0xBF] := by decide
theorem test_exec_setpolarity : traceOf (exec (.setPolarity 0xFF) (inInit 12)) = some [.tx .command 0xA7] := by decide
theorem test_exec_setstartline :
    traceOf (exec (.setStartLine 0xAE) (inInit 8)) = some [.tx .command 0xDC] ∧
    traceOf (exec (.setStartLine 0xAE) (inInit 9)) = some [.tx .command 0xAE] := by decide
theorem test_exec_setcontrast :
    traceOf (exec (.setContrast 0x80) (inInit 10)) = some [.tx .command 0x81] ∧
    traceOf (exec (.setContrast 0x80) (inInit 11)) = some [.tx .command 0x80] := by decide
theorem test_exec_setmux :
    traceOf (exec (.setMux 0x7F) (inInit 13)) = some [.tx .command 0xA8] ∧
    traceOf (exec (.setMux 0x7F) (inInit 14)) = some [.tx .command 0x7F] := by decide
theorem test_exec_setoffset :
    traceOf (exec (.setOffset 0x60) (inInit 15)) = some [.tx .command 0xD3] ∧
    traceOf (exec (.setOffset 0x60) (inInit 16)) = some [.tx .command 0x60] := by decide
theorem test_exec_setclock :
    traceOf (exec (.setClock 0xF1) (inInit 17)) = some [.tx .command 0xD5] ∧
    traceOf (exec (.setClock 0xF1) (inInit 18)) = some [.tx .command 0xF1] := by decide
theorem test_exec_setcharge :
    traceOf (exec (.setCharge 0x22) (inInit 19)) = some [.tx .command 0xD9] ∧
    traceOf (exec (.setCharge 0x22) (inInit 20)) = some [.tx .command 0x22] := by decide
theorem test_exec_setvcom :
    traceOf (exec (.setVcom 0xDB) (inInit 21)) = some [.tx .command 0xDB] ∧
    traceOf (exec (.setVcom 0xDB) (inInit 22)) = some [.tx .command 0xDB] := by decide
theorem test_exec_setdcdc :
    traceOf (exec (.setDcdc 0x01) (inInit 23)) = some [.tx .command 0xAD] ∧
    traceOf (exec (.setDcdc 0x01) (inInit 24)) = some [.tx .command 0x01] := by decide
/-- The last step of DEINIT (R151). -/
theorem test_exec_dispoff :
    (nextOf (exec .dispOff (inDeinit 4))).map (fun t => (t.trace, t.op, t.life, t.initialized)) =
      some ([.tx .command 0xAE], .idle, .deinit, false) := by decide
/-- The last step of INIT (R149). -/
theorem test_exec_dispon :
    (nextOf (exec .dispOn (inInit 25))).map (fun t => (t.trace, t.op, t.life, t.initialized)) =
      some ([.tx .command 0xAF], .idle, .on, true) := by decide
/-- R154: the meaning sends its operand, which the fetch has reversed, and the next row begins. -/
theorem test_exec_data :
    (nextOf (exec (.data 0x01) (inDisplay 0 3 2))).map (fun t => (t.trace, t.dc, t.row, t.stepNo)) =
      some ([.tx .data 0x01], .data, 1, 0) := by decide
/-- Program P5 of the vectors: a buffer of one byte for a frame of two. -/
theorem test_exec_data_raises :
    nextOf (exec (.data 0x80) (inDisplay 1 3 1)) = some inFault := by decide

/-! ### The requests, and the step -/

theorem test_exec_nop : nextOf (exec .nop State.reset) = some State.reset := by decide
theorem test_exec_init :
    (nextOf (exec (.init cfgWide) (inDeinit 5).finish)).map (fun t => (t.cfg, t.life, t.op, t.stepNo, t.initialized)) =
      some (cfgWide, .resetting, .init, 0, true) := by decide
theorem test_exec_deinit :
    (nextOf (exec .deinit State.reset)).map (fun t => (t.op, t.life, t.trace)) = some (.deinit, .uninit, []) := by decide
theorem test_exec_display :
    (nextOf (exec (.display 7) State.reset)).map (fun t => (t.op, t.lenR, t.row, t.stepNo)) =
      some (.display, 7, 0, 0) := by decide
/-- A request presented to a busy block waits (R140). -/
theorem test_exec_waits : nextOf (exec (.display 7) (inInit 3)) = some (inInit 3) := by decide

/-- S7: the data slots of the two rows send 0b00000001 and 0b10000000. -/
theorem test_step_data :
    traceOf (step (inDisplay 0 3 2)) = some [.tx .data 0x01] ∧ traceOf (step (inDisplay 1 3 2)) = some [.tx .data 0x80] := by
  decide
/-- S7: the address bytes of row 1. -/
theorem test_step_row :
    traceOf (step (inDisplay 1 1 2)) = some [.tx .command 0x01] ∧
    traceOf (step (inDisplay 1 2 2)) = some [.tx .command 0x10] := by decide
/-- R148: the parameter of a step of INIT is the latched register. -/
theorem test_step_init :
    traceOf (step (inInit 5)) = some [.tx .command 0x07] ∧ traceOf (step (inInit 24)) = some [.tx .command 0x81] := by
  decide
/-- S8, with the line low before. -/
theorem test_step_pulse :
    traceOf (step { inDeinit 0 with res := false }) = some [.res false] ∧
    traceOf (step (inDeinit 3)) = some [.dly 200] := by decide
/-- R35 rules this position out; it names no event. -/
theorem test_step_no_event : step (inInit 26) = .fault .noEventAtPosition := by rfl
theorem test_step_reset :
    (nextOf (step { inFault with rstIn := true })).map (fun t => (t.op, t.fault, t.life, t.trace, t.rstIn)) =
      some (.idle, false, .uninit, [], false) := by decide

/-- R65: a delay that does not end, and an address byte that the transport does not take. -/
theorem test_step_waits :
    nextOf (step (withEnv true false true (inInit 1))) = some (withEnv true false true (inInit 1)) ∧
    (nextOf (step (withEnv false true true (inDisplay 1 0 2)))).map (fun t => (t.trace, t.dc, t.stepNo, t.busy)) =
      some ([], .command, 0, true) := by decide
/-- R65: a data slot waits for the port, then for the transport; a slot outside the buffer asks neither (R154). -/
theorem test_step_waits_data :
    (nextOf (step (withEnv true true false (inDisplay 0 3 2)))).map (fun t => (t.trace, t.dc, t.stepNo)) =
      some ([], .command, 3) ∧
    (nextOf (step (withEnv false true true (inDisplay 0 3 2)))).map (fun t => (t.trace, t.dc, t.stepNo)) =
      some ([], .data, 3) ∧
    nextOf (step (withEnv false false false (inDisplay 1 3 1))) = some (withEnv false false false inFault) := by decide
/-- Once the transport answers, the waiting block sends its byte. -/
theorem test_step_resumes :
    (nextOf (step (withEnv false true true (inInit 5)))).bind
      (fun t => traceOf (step (HostAct.apply (.setEnv .answering) t))) = some [.tx .command 0x07] := by decide

/-- R61: the buffer byte 0x80 is read before the hand-over; a store during the wait and a port that falls silent change
nothing, and 0x01 is sent once. -/
theorem test_read_once :
    (nextOf (step (withEnv false true true (inDisplay 0 3 2)))).map (fun t => t.handed) = some (some 0x01) ∧
    (nextOf (step (withEnv true true false ((atTransport 0x01).storeFb 0 0xFF)))).map (fun t => (t.trace, t.handed)) =
      some ([.tx .data 0x01], none) := by decide

/-- R6: a reset line that is active high is driven high, then low (log 15). -/
theorem test_res_assert :
    traceOf (step (activeHigh (inInit 0))) = some [.res true] ∧ traceOf (step (activeHigh (inInit 2))) = some [.res false] ∧
    (nextOf (step { activeHigh (inInit 1) with rstIn := true })).map (fun t => t.res) = some false := by decide

/-- `withFetchWord` places the first byte of a two-byte command, a data byte and a request. -/
theorem test_with_fetch_word :
    traceOf (step (State.reset.withFetchWord 16 0x8180)) = some [.tx .command 0x81] ∧
    traceOf (step (State.reset.withFetchWord 8 0x34)) = some [.tx .data 0x34] ∧
    (nextOf (step (State.reset.withFetchWord 2 1))).map (fun t => t.op) = some .init := by decide

/-- R79. -/
theorem test_text :
    Event.text (.tx .command 0xB0) = "CMD 0xB0" ∧ Event.text (.dly 200) = "DLY 200" ∧
    Instr.text (.setContrast 0x80) = "SETCONTRAST 0x80" ∧ Event.text (.res true) = "RES 1" := by decide

/-! ### Witnesses: the hypotheses of the statements can be met -/

theorem witness_table : ∃ t : Table, t.wf = true ∧ (t.entry .setPage).kind = .one ∧ (t.entry .setMux).kind = .two ∧
    (t.entry .setMux).mask = 0xFF ∧ t.FirstByte .setMux 0xA8 :=
  ⟨Table.default, by decide, rfl, rfl, rfl, rfl⟩
theorem witness_encoder : (0x07 : Byte) &&& ~~~(Table.default.entry .setLowCol).mask = 0 ∧
    (0x0F : Byte) &&& ~~~(Table.default.entry .setLowCol).mask = 0 := by decide
theorem witness_decode_of_encode : Params.default.wf = true ∧ (Instr.setLowCol 0x0F).wf Params.default = true ∧
    (Instr.display 65535).wf Params.default = true ∧ (Instr.init cfgWide).wf Params.default = true := by decide
theorem witness_encode_of_decode : decode Table.default (.command [0xB5]) = .ok (.setPage 0x05) ∧
    decode Table.default (.command [0xDB, 0xDB]) = .ok (.setVcom 0xDB) ∧
    decode Table.default (.data 0xFF) = .ok (.data 0xFF) := ⟨rfl, rfl, rfl⟩

/-- `StepRunsTheDecodedInstruction`: an idle block, with a request and without. -/
theorem witness_step_idle : (waitingFor [⟨2, 0, 0⟩]).par.wf = true ∧ (waitingFor [⟨2, 0, 0⟩]).rstIn = false ∧
    (waitingFor [⟨2, 0, 0⟩]).fault = false ∧ (waitingFor [⟨2, 0, 0⟩]).op = .idle ∧
    decode Table.default (.request ⟨2, 0, 0⟩) = .ok .deinit ∧ State.reset.op = .idle ∧ State.reset.host = [] :=
  ⟨by decide, rfl, rfl, rfl, rfl, rfl, rfl⟩
/-- The first command, the last command, an address byte, a value byte and a pulse event of INIT. -/
theorem witness_step_init :
    (initPlan Params.default)[4]? = some (.cmd .dispOff false) ∧ (initPlan Params.default)[8]? = some (.cmd .setStartLine false) ∧
    (initPlan Params.default)[9]? = some (.cmd .setStartLine true) ∧ (initPlan Params.default)[25]? = some (.cmd .dispOn false) ∧
    (initPlan Params.default)[3]? = some (.pulse (.dly 200)) ∧ (initPlan Params.default)[26]? = none ∧
    decode Table.default (.command (encBytes Table.default .setStartLine ((inInit 9).cfg.param .setStartLine))) =
      .ok (.setStartLine 0xAE) := ⟨rfl, rfl, rfl, rfl, rfl, rfl, rfl⟩
theorem witness_step_deinit :
    (deinitPlan Params.default)[0]? = some (.pulse (.res false)) ∧ (deinitPlan Params.default)[4]? = some (.cmd .dispOff false) ∧
    decode Table.default (.command (encBytes Table.default .dispOff ((inDeinit 4).cfg.param .dispOff))) = .ok .dispOff :=
  ⟨rfl, rfl, rfl⟩
/-- The first and last addressing slots, and the first data slot, which is the last one too, of row 1. -/
theorem witness_step_display :
    (inDisplay 1 0 2).row.toNat < Params.default.height ∧ Params.default.wb + 2 = 3 ∧
    decode Table.default (.command (encBytes Table.default .setPage 0)) = .ok (.setPage 0) ∧
    decode Table.default (.command (encBytes Table.default .setLowCol ((inDisplay 1 1 2).row &&& 0x0F))) = .ok (.setLowCol 1) ∧
    decode Table.default (.command (encBytes Table.default .setHighCol ((inDisplay 1 2 2).row >>> 4))) = .ok (.setHighCol 0) ∧
    decode Table.default (.data (rev8 ((inDisplay 1 3 2).fb.read 1))) = .ok (.data 0x80) :=
  ⟨by decide, by decide, rfl, rfl, rfl, rfl⟩

theorem witness_placed : State.reset.par.wf = true ∧ State.reset.fb.wf = true ∧ State.reset.par.table = Table.default ∧
    decodeTableWord 8 0xAE = some .dispOff ∧ (State.reset.withFetchWord 8 0xAE).op ≠ .idle ∧
    decodeTableWord 2 2 = some .deinit ∧ (State.reset.withFetchWord 2 2).op = .idle := by decide

/-- `CommandSendsTheByteThatIsDue`: KIND ONE, the address byte and the value byte. -/
theorem witness_command : (Instr.setPage 3).command? = some (.setPage, 3) ∧ (inDisplay 0 0 2).op ≠ .idle ∧
    (inDisplay 0 0 2).fault = false ∧ ((inDisplay 0 0 2).par.table.entry .setPage).kind = .one ∧
    ((inInit 23).par.table.entry .setDcdc).kind = .two ∧ (inInit 23).atValueByte = false ∧
    (inInit 24).atValueByte = true ∧ (inInit 24).env.transport = true := by decide
theorem witness_one_byte : (inInit 5).par.table = Table.default ∧ (inInit 5).op ≠ .idle ∧ (inInit 5).fault = false ∧
    (inInit 5).env.transport = true := by decide
theorem witness_two_byte : [8, 10, 13, 15, 17, 19, 21, 23].all (fun n =>
    (inInit n).par.table = Table.default ∧ (inInit n).op = .init ∧ (inInit n).fault = false ∧ (inInit n).stepNo = n ∧
    (inInit n).env.transport = true) = true := by
  decide
theorem witness_command_frame : Instr.dispOn.command? = some (.dispOn, 0) ∧
    (nextOf (exec .dispOn (inInit 25))).isSome = true ∧ (inInit 24).stepNo + 1 < (inInit 24).par.initLen ∧
    (inDeinit 3).stepNo + 1 < Params.deinitLen ∧ ¬((inInit 24).op = .init ∧ (inInit 24).stepNo = 3) := by decide
/-- Offset 1 with a length of 2 and of 1. -/
theorem witness_data_slot : (inDisplay 1 3 2).env.fbPort = true ∧ (inDisplay 1 3 2).env.transport = true ∧
    (inDisplay 1 3 2).op = .display ∧ (inDisplay 1 3 2).fault = false ∧ 3 ≤ (inDisplay 1 3 2).stepNo ∧
    (inDisplay 1 3 2).stepNo - 3 + (inDisplay 1 3 2).row.toNat * (inDisplay 1 3 2).par.wb < (inDisplay 1 3 2).lenR ∧
    (inDisplay 1 3 1).lenR ≤ (inDisplay 1 3 1).stepNo - 3 + (inDisplay 1 3 1).row.toNat * (inDisplay 1 3 1).par.wb := by
  decide
theorem witness_data_frame :
    (nextOf (exec (.data 0x80) (inDisplay 1 3 2))).map (fun t => t.fault) = some false ∧
    (nextOf (exec (.data 0x80) (inDisplay 1 3 1))).map (fun t => t.fault) = some true := by decide
theorem witness_without_step : State.reset.op = .idle ∧ inFault.fault = true ∧
    (Instr.setPage 3).command? = some (.setPage, 3) := by decide

theorem witness_ready : State.reset.op = .idle ∧ State.reset.fault = false ∧ State.reset.rstIn = false := by decide
theorem witness_waits : (inInit 0).op ≠ .idle ∧ inFault.fault = true ∧
    (nextOf (step (inInit 0))).isSome = true ∧ (waitingFor [⟨1, 0, 0⟩, ⟨3, 0, 2⟩]).host = ⟨1, 0, 0⟩ :: [⟨3, 0, 2⟩] ∧
    (waitingFor [⟨1, 0, 0⟩, ⟨3, 0, 2⟩]).op = .idle ∧ (nextOf (step (waitingFor [⟨1, 0, 0⟩, ⟨3, 0, 2⟩]))).isSome = true := by
  decide

theorem witness_pulse : [0, 1, 2, 3].all (fun n => (inInit n).rstIn = false ∧ (inInit n).fault = false ∧ (inInit n).op = .init ∧
    (inInit n).stepNo = n ∧ (inDeinit n).op = .deinit ∧ (inDeinit n).stepNo = n ∧ (inInit n).env.timer = true ∧
    (inInit n).par.resAssert = false ∧ (activeHigh (inInit n)).par.resAssert = true) = true := by decide
theorem witness_pulse_elsewhere : Event.tx .command 0xAF ∈ (initList Params.default cfgWide).drop 4 ∧
    Event.tx .command 0xAE ∈ (deinitList Params.default).drop 4 ∧
    Event.tx .data 0 ∈ displayList Params.default fun _ => 0 := by decide
/-- STEP = 0, 3, 4 and the last. -/
theorem witness_init_steps : [0, 3, 4, 24, 25].all (fun n => (inInit n).rstIn = false ∧ (inInit n).fault = false ∧
    (inInit n).op = .init ∧ (inInit n).stepNo < (inInit n).par.initLen ∧ (inInit n).env.transport = true ∧
    (inInit n).env.timer = true) = true ∧
    (inInit 24).stepNo + 1 < (inInit 24).par.initLen ∧ (inInit 25).stepNo + 1 = (inInit 25).par.initLen := by decide
theorem witness_deinit_steps : [0, 3, 4].all (fun n => (inDeinit n).rstIn = false ∧ (inDeinit n).fault = false ∧
    (inDeinit n).op = .deinit ∧ (inDeinit n).stepNo < 5 ∧ (inDeinit n).env.transport = true ∧
    (inDeinit n).env.timer = true) = true := by decide
/-- Slots 0 to 2 of both rows. -/
theorem witness_addressing : ([0, 1] : List (BitVec 8)).all (fun r => [0, 1, 2].all fun n =>
    (inDisplay r n 2).par.wf = true ∧ (inDisplay r n 2).rstIn = false ∧ (inDisplay r n 2).fault = false ∧
    (inDisplay r n 2).op = .display ∧ (inDisplay r n 2).row.toNat < (inDisplay r n 2).par.height ∧
    (inDisplay r n 2).stepNo ≤ 2 ∧ (inDisplay r n 2).par.table = Table.default ∧
    (inDisplay r n 2).env.transport = true) = true := by decide

/-- A frame of two columns and two rows. -/
def wideFrame (r : BitVec 8) (n len : Nat) : State :=
  { inDisplay r n len with par := { Params.default with screenWidthBits := 16 } }

/-- `DataSlotSendsTheReversedByteOrRaises`: a row's first column, its last, the frame's last, and the fault. -/
theorem witness_data_slots :
    ([((0 : BitVec 8), 0), (0, 1), (1, 1)]).all (fun ri =>
      (wideFrame ri.1 (3 + ri.2) 4).rstIn = false ∧ (wideFrame ri.1 (3 + ri.2) 4).fault = false ∧
      (wideFrame ri.1 (3 + ri.2) 4).op = .display ∧
      (wideFrame ri.1 (3 + ri.2) 4).row.toNat < (wideFrame ri.1 (3 + ri.2) 4).par.height ∧
      (wideFrame ri.1 (3 + ri.2) 4).stepNo = 3 + ri.2 ∧ ri.2 < (wideFrame ri.1 (3 + ri.2) 4).par.wb ∧
      ri.2 + ri.1.toNat * (wideFrame ri.1 (3 + ri.2) 4).par.wb < (wideFrame ri.1 (3 + ri.2) 4).lenR) = true ∧
    (wideFrame 0 3 4).par.wb = 2 ∧ (wideFrame 0 3 4).par.height = 2 ∧
    (wideFrame 0 3 4).env.fbPort = true ∧ (wideFrame 0 3 4).env.transport = true ∧
    (wideFrame 1 3 2).lenR ≤ 0 + (wideFrame 1 3 2).row.toNat * (wideFrame 1 3 2).par.wb := by decide
theorem witness_host_store : (inDisplay 1 3 2).fb.wf = true ∧ (inDisplay 1 3 2).rstIn = false ∧
    (inDisplay 1 3 2).fault = false ∧ (inDisplay 1 3 2).op = .display ∧
    (inDisplay 1 3 2).row.toNat < (inDisplay 1 3 2).par.height ∧ 3 ≤ (inDisplay 1 3 2).stepNo ∧
    (inDisplay 1 3 2).stepNo ≤ (inDisplay 1 3 2).par.wb + 2 ∧
    1 = (inDisplay 1 3 2).stepNo - 3 + (inDisplay 1 3 2).row.toNat * (inDisplay 1 3 2).par.wb ∧
    1 < (inDisplay 1 3 2).lenR ∧ (inDisplay 1 3 2).env.fbPort = true ∧ (inDisplay 1 3 2).env.transport = true := by decide

theorem witness_default_table : Params.default.table = Table.default := rfl
/-- The whole operations: idle, not faulted, not reset; a buffer of exactly a frame, one of one byte, and none. -/
theorem witness_operations : State.reset.par.wf = true ∧ State.reset.op = .idle ∧ State.reset.fault = false ∧
    State.reset.rstIn = false ∧ State.reset.env.transport = true ∧ State.reset.env.timer = true ∧
    State.reset.env.fbPort = true ∧ State.reset.par.frameBytes ≤ 2 ∧ 1 < State.reset.par.frameBytes ∧
    0 < State.reset.par.frameBytes ∧
    7 = 1 / State.reset.par.wb * (3 + State.reset.par.wb) + (3 + 1 % State.reset.par.wb) ∧
    3 = 0 / State.reset.par.wb * (3 + State.reset.par.wb) + (3 + 0 % State.reset.par.wb) ∧
    24 < State.reset.par.initLen ∧ 7 < State.reset.par.height * (3 + State.reset.par.wb) := by decide

/-- The invariant holds in a busy state of each operation, with and without a fault. -/
theorem witness_inv : (inInit 2).Inv ∧ (inInit 25).Inv ∧ (inDeinit 1).Inv ∧ (inDisplay 1 3 1).Inv ∧ inFault.Inv :=
  ⟨⟨rfl, rfl, ⟨rfl, by decide, rfl⟩, by decide, by unfold State.resetLineOk; decide, rfl, fun h => absurd rfl h, by decide, by decide,
      by decide,
      by simp [inInit, State.reset]⟩,
   ⟨rfl, rfl, ⟨rfl, by decide, rfl⟩, by decide, by unfold State.resetLineOk; decide, rfl, fun h => absurd rfl h, by decide, by decide,
      by decide,
      by simp [inInit, State.reset]⟩,
   ⟨rfl, rfl, ⟨rfl, by decide⟩, by decide, by unfold State.resetLineOk; decide, rfl, fun h => absurd rfl h, by decide, by decide,
      by decide,
      by simp [inDeinit, State.reset]⟩,
   ⟨rfl, rfl, ⟨by decide, by decide⟩, by decide, by unfold State.resetLineOk; decide, rfl, fun h => absurd rfl h, by decide, by decide,
      by decide,
      by simp [inDisplay, State.reset]⟩,
   ⟨rfl, rfl, ⟨by decide, by decide⟩, by decide, by unfold State.resetLineOk; decide,
      ⟨rfl, rfl, by decide, rfl, by decide⟩, fun h => absurd rfl h, by decide, by decide, by decide,
      by simp [inFault, inDisplay, State.reset]⟩⟩
theorem witness_inv_transport : (atTransport 0x01).Inv :=
  ⟨rfl, rfl, ⟨by decide, by decide⟩, by decide, by unfold State.resetLineOk; decide, rfl,
    fun _ => ⟨rfl, by decide, by decide, rfl⟩, by decide, by decide, by decide,
    by simp [atTransport, withEnv, inDisplay, State.reset]⟩
/-- A step from a state of the invariant, and its faulted and reset forms. -/
theorem witness_inv_step : (nextOf (step (inInit 25))).isSome = true ∧ (nextOf (step (inDisplay 1 3 1))).isSome = true ∧
    inFault.fault = true ∧ inFault.rstIn = false ∧ ({ inFault with rstIn := true } : State).rstIn = true := by decide
theorem witness_host_act : ReqWord.wf (inInit 2).par ⟨3, 0, 65535⟩ = true := by decide
/-- The contract on lengths, with a frame running and another waiting, and a request that keeps it. -/
theorem witness_contract :
    ({ inDisplay 1 3 2 with host := [⟨3, 0, 2⟩] } : State).Contract ∧
    (nextOf (step { inDisplay 1 3 2 with host := [⟨3, 0, 2⟩] })).isSome = true ∧
    ReqWord.coversFrame (inDisplay 1 3 2).par ⟨3, 0, 2⟩ :=
  ⟨⟨fun _ => by decide, by intro w hw; simp at hw; subst hw; intro _; decide, rfl⟩, by decide, fun _ => by decide⟩
/-- Steps that write CFG, LENR, LIFE and INITIALIZED. -/
theorem witness_writes :
    (waitingFor [⟨1, packCfg cfgWide, 0⟩]).rstIn = false ∧
    (nextOf (step (waitingFor [⟨1, packCfg cfgWide, 0⟩]))).map (fun t => t.cfg) = some cfgWide ∧
    (nextOf (step (waitingFor [⟨3, 0, 2⟩]))).map (fun t => t.lenR) = some 2 ∧
    (nextOf (step (inInit 25))).map (fun t => t.initialized) = some true ∧
    (nextOf (step (inDeinit 4))).map (fun t => t.initialized) = some false := by decide
/-- Steps of a busy, an idle and a faulted block; each kind of event; and a run of five steps. -/
theorem witness_lines : (inInit 0).op ≠ .idle ∧ (inInit 0).fault = false ∧ (nextOf (step (inInit 0))).isSome = true ∧
    (nextOf (step State.reset)).isSome = true ∧ (nextOf (step inFault)).isSome = true ∧
    (State.afterSteps 5 (inInit 0)).isSome = true ∧ (State.afterSteps 5 State.reset).isSome = true := by decide
/-- `PresentingARequestDisturbsNothing`: busy, faulted, and with a request waiting. -/
theorem witness_present : ((inInit 0).op ≠ .idle ∨ (inInit 0).fault = true ∨ (inInit 0).host ≠ []) ∧
    inFault.fault = true ∧ (waitingFor [⟨2, 0, 0⟩]).host ≠ [] ∧
    (nextOf (step (waitingFor [⟨2, 0, 0⟩]))).isSome = true := by decide
/-- A byte at the transport: the data slot that waits with it and, where the transport answers, goes on; and the slot
before its byte is read. -/
theorem witness_transport : (atTransport 0x01).handed ≠ none ∧ (atTransport 0x01).handed = some 0x01 ∧
    (atTransport 0x01).dataOffset < (atTransport 0x01).lenR ∧ (atTransport 0x01).env.transport = false ∧
    (withEnv true true false (atTransport 0x01)).env.transport = true ∧ (atTransport 0x01).op = .display ∧
    (atTransport 0x01).rstIn = false ∧ (atTransport 0x01).fault = false ∧ (atTransport 0x01).fb.wf = true ∧
    (atTransport 0x01).row.toNat < (atTransport 0x01).par.height ∧ (atTransport 0x01).stepNo = 3 ∧
    3 ≤ (atTransport 0x01).par.wb + 2 ∧ (inDisplay 1 3 2).handed = none ∧
    decode Table.default (.data 0x01) = .ok (.data 0x01) ∧
    (withEnv false true true (inDisplay 1 3 2)).env.fbPort = true :=
  ⟨by decide, rfl, by decide, rfl, rfl, rfl, rfl, rfl, by decide, by decide, rfl, by decide, rfl, rfl, rfl⟩
/-- Waiting for the transport, for the timer and for the port. -/
theorem witness_waiting : (withEnv false true true (inInit 4)).Waiting ∧ (withEnv true false true (inDeinit 3)).Waiting ∧
    (withEnv true true false (inDisplay 1 3 2)).Waiting :=
  ⟨⟨rfl, rfl, by decide, .tx .command 0xAE, by decide, by decide⟩, ⟨rfl, rfl, by decide, .dly 200, by decide, by decide⟩,
   ⟨rfl, rfl, by decide, .tx .data 0x80, by decide, by decide⟩⟩
/-- `SilentEnvironmentHoldsTheBlock` and `WaitingLosesNothing`: the first and the last byte of INIT, and of a frame's row; a
run of waiting steps. -/
theorem witness_silent : [4, 25].all (fun n => (inInit n).op = .init ∧ 4 ≤ (inInit n).stepNo ∧
      (inInit n).stepNo < (inInit n).par.initLen ∧ (withEnv false true true (inInit n)).env.transport = false) = true ∧
    [0, 2].all (fun n => (inDisplay 1 n 2).row.toNat < (inDisplay 1 n 2).par.height ∧ (inDisplay 1 n 2).stepNo ≤ 2) = true ∧
    (inDisplay 1 3 2).stepNo ≤ (inDisplay 1 3 2).par.wb + 2 ∧ (inDisplay 1 3 2).dataOffset < (inDisplay 1 3 2).lenR ∧
    (withEnv true true false (inDisplay 1 3 2)).env.fbPort = false ∧
    (State.afterSteps 3 (withEnv false true true (inInit 4))).isSome = true := by decide
theorem witness_unseen : (waitingFor [⟨1, 0, 0⟩]).op = .idle ∧ (waitingFor [⟨1, 0, 0⟩]).fault = false ∧
    (State.afterSteps 5 (waitingFor [⟨1, 0, 0⟩])).isSome = true := by decide

end Sys2Proof.Machine
end

section
/-! PROOF. The transitions of LIFE (10_state.md R29): the length of the plans of INIT and DEINIT, the bound this puts on a
position that names an event, and what an accepted request and a step of SEQ leave in LIFE. -/

namespace Sys2Proof.Machine

/-! ### The plans of INIT and DEINIT have the lengths of their event lists -/

/-- A command has one step per byte (40_cmdenc.md R107). -/
@[simp] theorem cmdSlots_length (t : Table) (c : Cmd) : (cmdSlots t c).length = (t.entry c).length := by
  cases h : (t.entry c).kind <;> simp [cmdSlots, Entry.length, h]

theorem initPlan_length (p : Params) : (initPlan p).length = p.initLen := by
  simp [initPlan, Params.initLen, resetPulse, List.length_flatMap]
  omega

theorem deinitPlan_length (p : Params) : (deinitPlan p).length = Params.deinitLen := rfl

/-! ### A position that names an event is inside its plan -/

/-- In INIT and DEINIT the position names an event only where it names a slot of the plan. -/
theorem slot_of_nextEvent {s : State} {e : Event} (h : s.nextEvent = some e) (ho : s.op = .init ∨ s.op = .deinit) :
    ∃ x, s.slot? = some x := by
  rcases hs : s.slot? with _ | x
  · have hfetch : s.fetch = .nothing := by
      rcases ho with ho | ho <;> simp [State.fetch, State.fetchSlot, ho, hs]
    simp [State.nextEvent, hfetch] at h
  · exact ⟨x, rfl⟩

theorem stepNo_lt_initLen_of_nextEvent {s : State} {e : Event} (h : s.nextEvent = some e) (ho : s.op = .init) :
    s.stepNo < s.par.initLen := by
  obtain ⟨x, hx⟩ := slot_of_nextEvent h (.inl ho)
  simp only [State.slot?, ho] at hx
  rw [← initPlan_length]
  exact (List.getElem?_eq_some_iff.mp hx).1

theorem stepNo_lt_deinitLen_of_nextEvent {s : State} {e : Event} (h : s.nextEvent = some e) (ho : s.op = .deinit) :
    s.stepNo < Params.deinitLen := by
  obtain ⟨x, hx⟩ := slot_of_nextEvent h (.inr ho)
  simp only [State.slot?, ho] at hx
  rw [← deinitPlan_length s.par]
  exact (List.getElem?_eq_some_iff.mp hx).1

/-- The reset pulse and DISPOFF come before INIT's last step, so step 3 is not the last (42_sequencer.md R147). -/
theorem four_lt_initLen (p : Params) : 4 < p.initLen := by
  unfold Params.initLen
  omega

/-! ### What a step of SEQ leaves in LIFE -/

/-- 42_sequencer.md R148 and R149. -/
theorem State.seqStep_init_life {s : State} (e : Event) (ho : s.op = .init) (hn : s.stepNo < s.par.initLen) :
    (s.seqStep e).life =
      if s.stepNo = 3 then .config else if s.stepNo + 1 = s.par.initLen then .on else s.life := by
  have hlen := four_lt_initLen s.par
  by_cases hmid : s.stepNo + 1 < s.par.initLen
  · obtain ⟨-, -, -, hlife, -⟩ := State.seqStep_init_mid e ho hmid
    rw [hlife, if_neg (show ¬ s.stepNo + 1 = s.par.initLen by omega)]
  · obtain ⟨-, -, -, hlife, -⟩ := State.seqStep_init_last e ho hmid
    rw [hlife, if_neg (by omega), if_pos (by omega)]

/-- 42_sequencer.md R151. -/
theorem State.seqStep_deinit_life {s : State} (e : Event) (ho : s.op = .deinit) (hn : s.stepNo < Params.deinitLen) :
    (s.seqStep e).life = if s.stepNo = 4 then .deinit else s.life := by
  have hlen : Params.deinitLen = 5 := rfl
  by_cases hmid : s.stepNo + 1 < Params.deinitLen
  · obtain ⟨-, -, -, hlife, -⟩ := State.seqStep_deinit_mid e ho hmid
    rw [hlife, if_neg (by omega)]
  · obtain ⟨-, -, -, hlife, -⟩ := State.seqStep_deinit_last e ho hmid
    rw [hlife, if_pos (by omega)]

/-- 42_sequencer.md R153 to R155. -/
theorem State.seqStep_display_life {s : State} (e : Event) (ho : s.op = .display) : (s.seqStep e).life = s.life := by
  by_cases hslot : s.stepNo < s.par.wb + 2
  · obtain ⟨-, -, -, hlife, -⟩ := State.seqStep_display_slot e ho hslot
    exact hlife
  by_cases hrow : s.row.toNat + 1 < s.par.height
  · obtain ⟨-, -, -, hlife, -⟩ := State.seqStep_display_row e ho hslot hrow
    exact hlife
  · obtain ⟨-, -, -, hlife, -⟩ := State.seqStep_display_last e ho hslot hrow
    exact hlife

/-! ### What an accepted request leaves in LIFE -/

/-- Request code 1 is INIT (30_encoding.md R80). -/
theorem decodeRequest_of_op_eq_one {w : ReqWord} (h : w.op = 1) : decodeRequest w = .init (unpackCfg w.cfg) := by
  simp [decodeRequest, h]

/-- No other request code is INIT (30_encoding.md R80). -/
theorem decodeRequest_ne_init {w : ReqWord} (h : w.op ≠ 1) (cfg : Cfg) : decodeRequest w ≠ .init cfg := by
  have hop : w.op.toNat ≠ 1 := fun hn => h (BitVec.eq_of_toNat_eq hn)
  unfold decodeRequest
  split
  · simp
  · exact absurd ‹_› hop
  · simp
  · simp

/-- A ready block that takes an INIT enters RESETTING (42_sequencer.md R141). -/
theorem exec_init_life {s t : State} {cfg : Cfg} (hr : s.ready = true) (h : exec (.init cfg) s = .next t) :
    t.life = .resetting := by
  simp only [exec, execInit, State.accept_ready _ hr] at h
  cases h
  rfl

/-- No other request writes LIFE (42_sequencer.md R141, R143). -/
theorem exec_other_request_life {s t : State} {w : ReqWord} (hw : w.op ≠ 1) (h : exec (decodeRequest w) s = .next t) :
    t.life = s.life := by
  obtain ⟨hcmd, hdata⟩ := decodeRequest_command w
  rcases exec_cases h with rfl | ⟨-, c, p, hc, -⟩ | ⟨-, d, hd, -⟩ | ⟨-, e, -, rfl, -⟩ | ⟨-, -, -, -, rfl⟩ |
    ⟨-, ⟨cfg, hi, -⟩ | ⟨-, rfl⟩ | ⟨len, -, rfl⟩⟩
  · rfl
  · simp [hcmd] at hc
  · exact absurd hd (hdata d)
  · simp
  · rfl
  · exact absurd hi (decodeRequest_ne_init hw cfg)
  · rfl
  · rfl

/-- What a ready block that takes a request leaves in LIFE. -/
theorem exec_request_life {s t : State} {w : ReqWord} (hr : s.ready = true) (h : exec (decodeRequest w) s = .next t) :
    t.life = if w.op = 1 then .resetting else s.life := by
  split
  · rename_i hw
    rw [decodeRequest_of_op_eq_one hw] at h
    exact exec_init_life hr h
  · exact exec_other_request_life ‹_› h

/-! ### The transitions -/

/-- Settles O48: the cases of a step, with what each leaves in LIFE. -/
theorem lifeTransitionsAreComplete : Obligations.LifeTransitionsAreComplete := by
  unfold Obligations.LifeTransitionsAreComplete
  refine ⟨fun s t hr h => ?_, fun s t hr h => ?_, rfl, rfl, rfl, rfl, rfl, rfl⟩
  · rcases step_cases h with ⟨hrst, -⟩ | ⟨-, rfl, hf | ⟨ho, hh⟩⟩ | ⟨-, hf, ho, w, rest, hh, hex⟩ |
      ⟨-, hf, ho, -, e, he, -, rfl⟩ | ⟨-, -, ho, -, e, -, -, rfl⟩ | ⟨-, -, ho, -, -, -, -, rfl⟩
    · simp [hr] at hrst
    · rw [if_pos (.inl hf)]
    · simp [ho, hh]
    · have hready : s.takeRequest.ready = true := State.ready_iff.mpr ⟨ho, hf⟩
      simp [hf, ho, hh, exec_request_life hready hex]
    · rw [if_neg (by simp [hf])]
      cases hop : s.op with
      | idle => exact absurd hop ho
      | init => exact State.seqStep_init_life e hop (stepNo_lt_initLen_of_nextEvent he hop)
      | deinit => exact State.seqStep_deinit_life e hop (stepNo_lt_deinitLen_of_nextEvent he hop)
      | display => exact State.seqStep_display_life e hop
    · rw [if_pos (.inr ⟨ho, by simp⟩)]
      simp
    · rw [if_pos (.inr ⟨by simp [ho], rfl⟩)]
      rfl
  · rw [step_reset hr] at h
    cases h
    rfl

end Sys2Proof.Machine
end

section
/-! PROOF. Request words (30_encoding.md R80): the instruction of each code, and the configuration of REQ_CFG, whose twelve
bytes are adjacent fields of the word, so that packing them gives the word back. -/

namespace Sys2Proof

/-! ### The four codes -/

theorem decode_request (t : Table) (w : ReqWord) : decode t (.request w) = .ok (decodeRequest w) := rfl

theorem decodeRequest_code_zero (cfg : BitVec 96) (len : Nat) : decodeRequest ⟨0, cfg, len⟩ = .nop := rfl

theorem decodeRequest_code_two (cfg : BitVec 96) (len : Nat) : decodeRequest ⟨2, cfg, len⟩ = .deinit := rfl

theorem decodeRequest_code_three (cfg : BitVec 96) (len : Nat) : decodeRequest ⟨3, cfg, len⟩ = .display len := rfl

/-! ### The bytes of REQ_CFG -/

/-- Bit b of byte k is bit 8k + b of the word. -/
theorem cfgByte_getLsbD (w : BitVec 96) (k : Nat) (b : Fin 8) : (cfgByte w k).getLsbD b = w.getLsbD (8 * k + b) := by
  rw [cfgByte, BitVec.getLsbD_extractLsb', decide_eq_true b.isLt, Bool.true_and]

/-- The commands that carry a configuration take its bytes in the order of REQ_CFG (10_state.md R20). -/
theorem unpackCfg_bytes (w : BitVec 96) : (unpackCfg w).bytes = (List.range 12).map (cfgByte w) := rfl

theorem unpackCfg_bytes_getElem? (w : BitVec 96) (k : Fin 12) : (unpackCfg w).bytes[k.val]? = some (cfgByte w k) := by
  rw [unpackCfg_bytes, List.getElem?_map, List.getElem?_range k.isLt, Option.map_some]

/-- Adjacent fields of a word append to one field, here eleven times, up to the field that is the whole word. -/
theorem packCfg_unpackCfg (w : BitVec 96) : packCfg (unpackCfg w) = w := by
  simp only [packCfg, unpackCfg, cfgByte, BitVec.extractLsb'_append_extractLsb'_eq_extractLsb']
  exact BitVec.extractLsb'_eq_self

/-! ### Every request word is legal -/

/-- Settles O10: the instruction of each code; the configuration of an INIT is the twelve bytes of REQ_CFG. -/
theorem requestWordsDecodeByTheirFields : Obligations.RequestWordsDecodeByTheirFields := by
  unfold Obligations.RequestWordsDecodeByTheirFields
  intro t cfg len
  simp only [decode_request, decodeRequest_code_zero, decodeRequest_code_two, decodeRequest_code_three, true_and]
  refine ⟨unpackCfg cfg, ?_, packCfg_unpackCfg cfg, fun k b => ?_⟩
  · rw [Machine.decodeRequest_of_op_eq_one rfl]
  · rw [unpackCfg_bytes_getElem?, Option.getD_some, cfgByte_getLsbD]

end Sys2Proof
end

section
/-! PROOF. The bit reversal (41_bitrev.md R130 to R132). The definition appends eight bits, which gives its value and
its bits; these are those of the library's `BitVec.reverse`, which undoes itself and swaps the halves of a byte. -/

namespace Sys2Proof

/-! ### The value and the bits -/

/-- The definition, by the library's operation that appends one bit. -/
theorem rev8_eq_concat (b : Byte) : rev8 b =
    (((((((BitVec.ofBool (b.getLsbD 0)).concat (b.getLsbD 1)).concat (b.getLsbD 2)).concat (b.getLsbD 3)).concat
      (b.getLsbD 4)).concat (b.getLsbD 5)).concat (b.getLsbD 6)).concat (b.getLsbD 7) := rfl

/-- The sum of R130: each appended bit doubles the value of those before it. -/
theorem rev8_toNat (b : Byte) :
    (rev8 b).toNat = ((List.range 8).map fun k => (b.getLsbD k).toNat * 2 ^ (7 - k)).sum := by
  rw [rev8_eq_concat]
  simp only [BitVec.toNat_concat, BitVec.toNat_ofBool, List.range_succ, List.range_zero, List.nil_append,
    List.map_append, List.map_cons, List.map_nil, List.sum_append, List.sum_cons, List.sum_nil]
  omega

theorem rev8_getLsbD (b : Byte) {k : Nat} (hk : k < 8) : (rev8 b).getLsbD k = b.getLsbD (7 - k) := by
  rw [rev8_eq_concat]
  interval_cases k <;> simp

/-- R132: the bits change places, so their number stays. -/
theorem map_range_rev8_getLsbD (b : Byte) :
    ((List.range 8).map fun k => ((rev8 b).getLsbD k).toNat) =
      ((List.range 8).map fun k => (b.getLsbD k).toNat).reverse := by
  rw [← List.map_reverse, List.range_eq_range', List.reverse_range', ← List.range_eq_range', List.map_map]
  exact List.map_congr_left fun k hk => congrArg Bool.toNat (rev8_getLsbD b (List.mem_range.mp hk))

/-! ### The library's reversal -/

theorem rev8_eq_reverse (b : Byte) : rev8 b = b.reverse := by
  apply BitVec.eq_of_getLsbD_eq
  intro k hk
  rw [rev8_getLsbD b hk, BitVec.getLsbD_reverse, BitVec.getMsbD_eq_getLsbD, decide_eq_true hk, Bool.true_and]

/-- R131. -/
theorem rev8_involutive : Function.Involutive rev8 := fun b => by
  rw [rev8_eq_reverse, rev8_eq_reverse, BitVec.reverse_reverse_eq]

theorem rev8_append (hi lo : BitVec 4) : rev8 (hi ++ lo) = lo.reverse ++ hi.reverse := by
  rw [rev8_eq_reverse, BitVec.reverse_append, BitVec.cast_eq]

/-- A byte that is its own reversal is given by its low half, so there are at most sixteen. -/
theorem exists_low_half_of_rev8_eq_self {b : Byte} (h : rev8 b = b) : ∃ lo : BitVec 4, lo.reverse ++ lo = b := by
  obtain ⟨hi, lo, rfl⟩ : ∃ hi lo : BitVec 4, hi ++ lo = b :=
    ⟨b.extractLsb' 4 4, b.extractLsb' 0 4, BitVec.extractLsb'_append_extractLsb'⟩
  have hhi : lo.reverse = hi := by
    have hhalf := congrArg (BitVec.extractLsb' 4 4) ((rev8_append hi lo).symm.trans h)
    rwa [BitVec.extractLsb'_append_eq_left, BitVec.extractLsb'_append_eq_left] at hhalf
  exact ⟨lo, by rw [hhi]⟩

/-! ### The obligations -/

/-- Settles O8: the sixteen low halves give the sixteen bytes listed, and each of these is its own reversal. -/
theorem revEightReversesTheBits : Obligations.RevEightReversesTheBits := by
  unfold Obligations.RevEightReversesTheBits
  refine ⟨fun b k => rev8_getLsbD b k.isLt, by decide, by decide, by decide, by decide, rev8_toNat,
    fun b => ⟨fun h => ?_, ?_⟩⟩
  · obtain ⟨lo, rfl⟩ := exists_low_half_of_rev8_eq_self h
    revert lo
    decide
  · revert b
    decide

/-- Settles O9: a function that undoes itself is a bijection, and bits that change places keep their number. -/
theorem revEightIsAnInvolutionAndABijection : Obligations.RevEightIsAnInvolutionAndABijection := by
  unfold Obligations.RevEightIsAnInvolutionAndABijection
  refine ⟨rev8_involutive, fun _ _ h => rev8_involutive.injective h, rev8_involutive.surjective, fun b => ?_⟩
  rw [map_range_rev8_getLsbD, List.sum_reverse_nat]

end Sys2Proof
end

section
/-! PROOF. The acceptance of the requests (42_sequencer.md R141) and the reset pulse (R145): at its four positions a
step performs the event of the pulse, and all other events of the three operations are bytes. -/

namespace Sys2Proof.Machine

/-! ### Acceptance -/

/-- Settles O23: a ready channel accepts, and the effect of each request writes the fields that R141 names. -/
theorem requestsAreAcceptedAtOnce : Obligations.RequestsAreAcceptedAtOnce := by
  unfold Obligations.RequestsAreAcceptedAtOnce
  intro s ho hf
  have hready : s.ready = true := State.ready_iff.mpr ⟨ho, hf⟩
  exact ⟨State.accept_ready id hready,
    fun cfg => State.accept_ready (fun s => ((s.latchCfg cfg).setLife .resetting).setPc .init 0 0) hready,
    State.accept_ready (State.setPc .deinit 0 0) hready,
    fun len => State.accept_ready (fun s => (s.latchLen len).setPc .display 0 0) hready⟩

/-! ### The steps of the reset pulse -/

section
variable {s : State} {e : Event} (ho : s.op = .init ∨ s.op = .deinit) (he : (resetPulse s.par)[s.stepNo]? = some e)
include ho he

/-- The plans of INIT and DEINIT begin with the reset pulse. -/
theorem slot_of_pulse : s.slot? = some (.pulse e) := by
  have hn : s.stepNo < ((resetPulse s.par).map Slot.pulse).length := by
    rw [List.length_map]
    exact (List.getElem?_eq_some_iff.mp he).1
  have hpulse : ((resetPulse s.par).map Slot.pulse)[s.stepNo]? = some (.pulse e) := by
    rw [List.getElem?_map, he, Option.map_some]
  rcases ho with ho | ho <;>
    simp only [State.slot?, ho, initPlan, deinitPlan, List.append_assoc, List.getElem?_append_left hn, hpulse]

theorem nextEvent_of_pulse : s.nextEvent = some e := by
  have hslot : s.slot? = some (.pulse e) := slot_of_pulse ho he
  have hfetch : s.fetch = .pulse e := by
    rcases ho with ho | ho <;> simp [State.fetch, State.fetchSlot, ho, hslot]
  simp [State.nextEvent, hfetch]

/-- The last step of INIT and that of DEINIT come after the pulse (42_sequencer.md R148, R151). -/
theorem seqStep_stepNo_of_pulse : (s.seqStep e).stepNo = s.stepNo + 1 := by
  have hn : s.stepNo < 4 := (List.getElem?_eq_some_iff.mp he).1
  rcases ho with ho | ho
  · have hlen := four_lt_initLen s.par
    obtain ⟨-, -, hstep, -⟩ := State.seqStep_init_mid e ho (by omega)
    exact hstep
  · have hlen : Params.deinitLen = 5 := rfl
    obtain ⟨-, -, hstep, -⟩ := State.seqStep_deinit_mid e ho (by omega)
    exact hstep

/-- Where the environment answers, a step at a position of the pulse performs the event there and goes to the next
position. -/
theorem step_pulse (hr : s.rstIn = false) (hf : s.fault = false) (ha : s.answered e = true) :
    ∃ t, step s = .next t ∧ t.trace = s.trace ++ [e] ∧ t.res = (s.perform e).res ∧ t.stepNo = s.stepNo + 1 := by
  have hbusy : s.op ≠ .idle := op_of_nextEvent (nextEvent_of_pulse ho he)
  have hslot : s.atDataSlot = false := by rcases ho with ho | ho <;> simp [State.atDataSlot, ho]
  have hstep : step s = s.emit e := step_nextEvent hr hf (by simp [hslot]) (nextEvent_of_pulse ho he)
  rw [State.emit_enabled e (State.enabled_iff.mpr ⟨hbusy, hf⟩) ha] at hstep
  exact ⟨_, hstep, State.seqStep_trace s e, State.seqStep_res s e, seqStep_stepNo_of_pulse ho he⟩
end

/-! ### Outside the reset pulse every event is a byte -/

/-- 40_cmdenc.md R102. -/
theorem tx_of_mem_encSeq {t : Table} {c : Cmd} {p : Byte} {e : Event} (h : e ∈ encSeq t c p) :
    ∃ m b, e = .tx m b := by
  obtain ⟨b, -, rfl⟩ := List.mem_map.mp h
  exact ⟨.command, b, rfl⟩

/-- 42_sequencer.md R147. -/
theorem tx_of_mem_initList_drop {p : Params} {cfg : Cfg} {e : Event} (h : e ∈ (initList p cfg).drop 4) :
    ∃ m b, e = .tx m b := by
  have hdrop : (initList p cfg).drop 4 = .tx .command (enc1 p.table .dispOff 0) ::
      (Cmd.config.flatMap (fun c => encSeq p.table c (cfg.param c)) ++ [.tx .command (enc1 p.table .dispOn 0)]) := rfl
  rw [hdrop, List.mem_cons, List.mem_append, List.mem_flatMap, List.mem_singleton] at h
  rcases h with rfl | ⟨c, -, hc⟩ | rfl
  · exact ⟨_, _, rfl⟩
  · exact tx_of_mem_encSeq hc
  · exact ⟨_, _, rfl⟩

/-- 42_sequencer.md R150. -/
theorem tx_of_mem_deinitList_drop {p : Params} {e : Event} (h : e ∈ (deinitList p).drop 4) : ∃ m b, e = .tx m b :=
  ⟨_, _, List.mem_singleton.mp h⟩

/-- 42_sequencer.md R155. -/
theorem tx_of_mem_displayList {p : Params} {fb : Nat → Byte} {e : Event} (h : e ∈ displayList p fb) :
    ∃ m b, e = .tx m b := by
  obtain ⟨j, -, hj⟩ := List.mem_flatMap.mp h
  rcases List.mem_append.mp hj with haddr | hdata
  · simp only [List.mem_cons, List.not_mem_nil, or_false] at haddr
    rcases haddr with rfl | rfl | rfl <;> exact ⟨_, _, rfl⟩
  · obtain ⟨i, -, rfl⟩ := List.mem_map.mp hdata
    exact ⟨_, _, rfl⟩

/-! ### The obligation -/

/-- Settles O26: the step at each of the four positions of the pulse, and the events of the three lists outside it. -/
theorem resetPulseDrivesTheLineLowThenHigh : Obligations.ResetPulseDrivesTheLineLowThenHigh := by
  unfold Obligations.ResetPulseDrivesTheLineLowThenHigh
  have hpulse : ∀ p : Params, p.resAssert = false →
      resetPulse p = [.res false, .dly p.tResetMs, .res true, .dly p.tResetMs] := fun p hp => by simp [resetPulse, hp]
  refine ⟨fun s hlow hr hf ho => ?_, fun p cfg fb e he => ?_, hpulse, rfl⟩
  · refine ⟨fun hn => ?_, fun hn htimer => ?_, fun hn => ?_, fun hn htimer => ?_⟩
    · have he : (resetPulse s.par)[s.stepNo]? = some (.res false) := by rw [hpulse _ hlow, hn]; rfl
      simpa [hn] using step_pulse ho he hr hf rfl
    · have he : (resetPulse s.par)[s.stepNo]? = some (.dly s.par.tResetMs) := by rw [hn]; rfl
      simpa [hn] using step_pulse ho he hr hf htimer
    · have he : (resetPulse s.par)[s.stepNo]? = some (.res true) := by rw [hpulse _ hlow, hn]; rfl
      simpa [hn] using step_pulse ho he hr hf rfl
    · have he : (resetPulse s.par)[s.stepNo]? = some (.dly s.par.tResetMs) := by rw [hn]; rfl
      simpa [hn] using step_pulse ho he hr hf htimer
  · rcases he with he | he | he
    · exact tx_of_mem_initList_drop he
    · exact tx_of_mem_deinitList_drop he
    · exact tx_of_mem_displayList he

end Sys2Proof.Machine
end

section
/-! PROOF. The fault entry (60_exceptions.md R182) at the one place that raises (R181): a data slot of DISPLAY outside the
buffer. -/

namespace Sys2Proof.Machine

/-- R181, R182: DATA where it traps. The environment is not asked. -/
theorem exec_data_raises {s : State} (d : Byte) (hen : s.enabled = true) (hslot : s.atDataSlot = true)
    (hout : s.lenR ≤ s.dataOffset) : exec (.data d) s = .next (s.raise .fbOutOfBounds s.dataOffset) :=
  if_pos (by simp [hen, hslot, hout])

/-- Settles O20: in DISPLAY at a slot of 3 or more SEQ has a step and is at a data slot, so DATA raises, and the fault
entry writes the three registers. -/
theorem dataByteOutsideTheBufferRaises : Obligations.DataByteOutsideTheBufferRaises := by
  unfold Obligations.DataByteOutsideTheBufferRaises
  intro d s hop hfault hstep hout
  have hen : s.enabled = true := State.enabled_iff.mpr ⟨by simp [hop], hfault⟩
  have hslot : s.atDataSlot = true := by simp [State.atDataSlot, hop, hstep]
  exact exec_data_raises d hen hslot hout

end Sys2Proof.Machine
end

section
/-! PROOF. The command table (30_encoding.md R74 to R76): facts about bits under a mask, the first-byte set of a row as a
masked comparison, the well-formed tables, and the encoder CMDENC over them (40_cmdenc.md R100 to R103). -/

namespace Sys2Proof

/-! ### Bits under a mask -/

section
variable {w : Nat} {x t m n : BitVec w}

theorem and_or_and_not (x m : BitVec w) : x &&& m ||| x &&& ~~~m = x := by
  rw [← BitVec.and_or_distrib_left, BitVec.or_not_self, BitVec.and_allOnes]

theorem and_eq_self_of_and_not (h : x &&& ~~~m = 0) : x &&& m = x := by
  simpa [h] using and_or_and_not x m

theorem and_not_eq_self_of_and (h : x &&& m = 0) : x &&& ~~~m = x := by
  simpa [h] using and_or_and_not x m

theorem and_mask_and_not (x m : BitVec w) : x &&& m &&& ~~~m = 0 := by
  rw [BitVec.and_assoc, BitVec.and_not_self]
  exact BitVec.and_zero

/-- Inside the mask the OR of a tag and a masked parameter is the parameter. -/
theorem tag_or_and_mask (x : BitVec w) (h : t &&& m = 0) : (t ||| x &&& m) &&& m = x &&& m := by
  rw [BitVec.and_or_distrib_right, h, BitVec.and_assoc, BitVec.and_self]
  exact BitVec.zero_or

/-- Outside the mask it is the tag. -/
theorem tag_or_and_not_mask (x : BitVec w) (h : t &&& m = 0) : (t ||| x &&& m) &&& ~~~m = t := by
  rw [BitVec.and_or_distrib_right, and_not_eq_self_of_and h, and_mask_and_not]
  exact BitVec.or_zero

theorem or_and_self (x m : BitVec w) : x ||| x &&& m = x := by
  ext i hi
  simp +contextual

theorem xor_and_eq_zero_iff (x t m : BitVec w) : (x ^^^ t) &&& m = 0 ↔ x &&& m = t &&& m := by
  rw [← BitVec.xor_eq_zero_iff (x := x &&& m)]
  refine Eq.congr_left ?_
  ext i hi
  simp [Bool.and_xor_distrib_right]
end

@[simp] theorem and_ones (b : Byte) : b &&& 255#8 = b := BitVec.and_allOnes

/-! ### First bytes (R75 b) -/

theorem mem_cmdAll (c : Cmd) : c ∈ Cmd.all := by
  cases c <;> decide

namespace Entry

theorem isFirstByte_iff (e : Entry) (b : Byte) : e.isFirstByte b = true ↔ b &&& ~~~e.free = e.tag := by
  simp [isFirstByte]

/-- The tag is a first byte, with any parameter that lies inside the free bits. -/
theorem isFirstByte_tag_or {e : Entry} (h : e.tag &&& e.free = 0) (x : Byte) :
    e.isFirstByte (e.tag ||| x &&& e.free) = true :=
  (isFirstByte_iff e _).mpr (tag_or_and_not_mask x h)

/-- A first byte is the tag and, in the free bits, its parameter. -/
theorem tag_or_of_isFirstByte {e : Entry} {b : Byte} (h : e.isFirstByte b = true) : e.tag ||| b &&& e.free = b := by
  rw [← (isFirstByte_iff e b).mp h, BitVec.or_comm, and_or_and_not]

theorem disjoint_iff (e f : Entry) :
    e.disjoint f = true ↔ e.tag &&& ~~~(e.free ||| f.free) ≠ f.tag &&& ~~~(e.free ||| f.free) := by
  rw [ne_eq, ← xor_and_eq_zero_iff]
  simp [Entry.disjoint]

/-- A byte of both rows has both tags in the bits that both rows fix. -/
theorem not_disjoint_of_isFirstByte {e f : Entry} {b : Byte} (he : e.isFirstByte b = true)
    (hf : f.isFirstByte b = true) : ¬ e.disjoint f = true := by
  rw [disjoint_iff, not_not, ← (isFirstByte_iff e b).mp he, ← (isFirstByte_iff f b).mp hf, BitVec.not_or]
  ext i hi
  simp
  grind

/-- Where the tags agree in the bits that both rows fix, their OR is a byte of both rows. -/
theorem isFirstByte_tag_or_tag {e f : Entry} (he : e.tag &&& e.free = 0) (hf : f.tag &&& f.free = 0)
    (h : ¬ e.disjoint f = true) : e.isFirstByte (e.tag ||| f.tag) = true := by
  rw [disjoint_iff, not_not, BitVec.not_or] at h
  have hfixed : f.tag &&& ~~~e.free = e.tag &&& (~~~e.free &&& ~~~f.free) := by
    rw [h, BitVec.and_comm (~~~e.free), ← BitVec.and_assoc, and_not_eq_self_of_and hf]
  rw [isFirstByte_iff, BitVec.and_or_distrib_right, and_not_eq_self_of_and he, hfixed, or_and_self]

theorem disjoint_comm (e f : Entry) : e.disjoint f = f.disjoint e := by
  simp [Entry.disjoint, BitVec.xor_comm, BitVec.or_comm]

end Entry

/-! ### Well-formed tables (R75) -/

theorem Table.wf_iff (t : Table) : t.wf = true ↔
    (∀ c, (t.entry c).tag &&& (t.entry c).free = 0) ∧
    (∀ c d, c = d ∨ (t.entry c).disjoint (t.entry d) = true) ∧
    (∀ c ∈ ([.setLowCol, .setHighCol, .setPage, .dispOff, .dispOn] : List Cmd), (t.entry c).kind = .one) := by
  simp only [Table.wf, Bool.and_eq_true, List.all_eq_true, Bool.or_eq_true, beq_iff_eq, mem_cmdAll, forall_const,
    and_assoc]

theorem Entry.free_of_one {e : Entry} (h : e.kind = .one) : e.free = e.mask := by
  simp [Entry.free, h]

theorem Entry.free_of_two {e : Entry} (h : e.kind = .two) : e.free = 0 := by
  simp [Entry.free, h]

/-- The first-byte set, by the masked comparison the decoder makes. -/
theorem Table.firstByte_iff {t : Table} {c : Cmd} (h : (t.entry c).tag &&& (t.entry c).free = 0) (b : Byte) :
    t.FirstByte c b ↔ (t.entry c).isFirstByte b = true := by
  cases hk : (t.entry c).kind with
  | one =>
    simp only [Table.FirstByte, hk]
    rw [Entry.free_of_one hk] at h
    constructor
    · rintro ⟨q, hq, rfl⟩
      rw [Entry.isFirstByte_iff, Entry.free_of_one hk, ← and_eq_self_of_and_not hq]
      exact tag_or_and_not_mask q h
    · intro hb
      refine ⟨b &&& (t.entry c).mask, and_mask_and_not b _, ?_⟩
      rw [← Entry.free_of_one hk, Entry.tag_or_of_isFirstByte hb]
  | two =>
    simp [Table.FirstByte, hk, Entry.isFirstByte, Entry.free_of_two hk]

/-- The tag of a KIND TWO command overlaps nothing. -/
theorem Table.tag_and_free_iff (t : Table) : (∀ c, (t.entry c).tag &&& (t.entry c).free = 0) ↔
    ∀ c, (t.entry c).kind = .one → (t.entry c).tag &&& (t.entry c).mask = 0 := by
  refine forall_congr' fun c => ?_
  cases hk : (t.entry c).kind with
  | one => simp [Entry.free_of_one hk]
  | two => simp [Entry.free_of_two hk]

/-- The rows are disjoint in their fixed bits exactly when no first byte belongs to two commands. -/
theorem Table.disjoint_iff_firstByte {t : Table} (h : ∀ c, (t.entry c).tag &&& (t.entry c).free = 0) :
    (∀ c d, c = d ∨ (t.entry c).disjoint (t.entry d) = true) ↔
      ∀ c d b, t.FirstByte c b → t.FirstByte d b → c = d := by
  simp only [Table.firstByte_iff (h _)]
  constructor
  · intro hd c d b hc hb
    exact (hd c d).resolve_right (Entry.not_disjoint_of_isFirstByte hc hb)
  · intro hu c d
    by_contra hn
    obtain ⟨hcd, hnd⟩ := not_or.mp hn
    have hc := Entry.isFirstByte_tag_or_tag (h c) (h d) hnd
    have hd := Entry.isFirstByte_tag_or_tag (h d) (h c) (by rwa [Entry.disjoint_comm])
    rw [BitVec.or_comm] at hd
    exact hcd (hu c d _ hc hd)

section
variable {t : Table} (ht : t.wf = true)
include ht

theorem Table.tag_and_free_of_wf (c : Cmd) : (t.entry c).tag &&& (t.entry c).free = 0 :=
  ((Table.wf_iff t).mp ht).1 c

theorem Table.tag_and_mask_of_wf {c : Cmd} (hk : (t.entry c).kind = .one) : (t.entry c).tag &&& (t.entry c).mask = 0 :=
  (Table.tag_and_free_iff t).mp (Table.tag_and_free_of_wf ht) c hk

/-- The commands that SEQ sends through Enc1 (log 17). -/
theorem Table.kind_of_wf {c : Cmd} (hc : c ∈ ([.setLowCol, .setHighCol, .setPage, .dispOff, .dispOn] : List Cmd)) :
    (t.entry c).kind = .one :=
  ((Table.wf_iff t).mp ht).2.2 c hc

/-- A byte of a command's first-byte set tells the command. -/
theorem commandOf_of_isFirstByte {c : Cmd} {b : Byte} (h : (t.entry c).isFirstByte b = true) :
    commandOf t b = some c := by
  have hu := (Table.disjoint_iff_firstByte (Table.tag_and_free_of_wf ht)).mp ((Table.wf_iff t).mp ht).2.1
  cases hf : commandOf t b with
  | none => exact absurd h (by simpa using List.find?_eq_none.mp hf c (mem_cmdAll c))
  | some d =>
    have hd : (t.entry d).isFirstByte b = true := by simpa using List.find?_some hf
    rw [hu d c b ((Table.firstByte_iff (Table.tag_and_free_of_wf ht d) b).mpr hd)
      ((Table.firstByte_iff (Table.tag_and_free_of_wf ht c) b).mpr h)]
end

/-- What the decoder's search finds. -/
theorem isFirstByte_of_commandOf {t : Table} {c : Cmd} {b : Byte} (h : commandOf t b = some c) :
    (t.entry c).isFirstByte b = true := by
  simpa using List.find?_some h

/-- Settles O1: the three parts of the check are the three constraints, and outside the mask a byte is its tag. -/
theorem wellFormedTableSeparatesCommands : Obligations.WellFormedTableSeparatesCommands := by
  unfold Obligations.WellFormedTableSeparatesCommands
  intro t
  refine ⟨?_, fun ht c p hk => tag_or_and_mask p (Table.tag_and_mask_of_wf ht hk)⟩
  rw [Table.wf_iff, ← Table.tag_and_free_iff]
  exact and_congr_right fun htag => and_congr_left' (Table.disjoint_iff_firstByte htag)

/-! ### The encoder -/

theorem encBytes_one {t : Table} {c : Cmd} (h : (t.entry c).kind = .one) (p : Byte) :
    encBytes t c p = [enc1 t c p] := by
  simp [encBytes, h]

theorem encBytes_two {t : Table} {c : Cmd} (h : (t.entry c).kind = .two) (p : Byte) :
    encBytes t c p = [(t.entry c).tag, p &&& (t.entry c).mask] := by
  simp [encBytes, enc2, h]

theorem enc1_mask (t : Table) (c : Cmd) (p : Byte) : enc1 t c (p &&& (t.entry c).mask) = enc1 t c p := by
  simp [enc1, BitVec.and_assoc]

theorem enc2_mask (t : Table) (c : Cmd) (p : Byte) : enc2 t c (p &&& (t.entry c).mask) = enc2 t c p := by
  simp [enc2, BitVec.and_assoc]

theorem encBytes_mask (t : Table) (c : Cmd) (p : Byte) : encBytes t c (p &&& (t.entry c).mask) = encBytes t c p := by
  simp [encBytes, enc1_mask, enc2_mask]

/-- Settles O3: under a mask that the tag does not overlap, the byte is the parameter inside and the tag outside. -/
theorem encoderIsLosslessInsideTheMask : Obligations.EncoderIsLosslessInsideTheMask := by
  unfold Obligations.EncoderIsLosslessInsideTheMask
  intro t c p q ht
  refine ⟨fun hk => ?_, fun _ hm => ?_, ?_⟩
  · have htag := Table.tag_and_mask_of_wf ht hk
    refine ⟨tag_or_and_mask p htag, tag_or_and_not_mask p htag, fun hp => ?_, fun hp hq he => ?_⟩
    · rw [enc1, and_eq_self_of_and_not hp]
    · have hinside := congrArg (· &&& (t.entry c).mask) he
      simp only [enc1, tag_or_and_mask _ htag] at hinside
      rwa [and_eq_self_of_and_not hp, and_eq_self_of_and_not hq] at hinside
  · rw [enc2, hm]
    exact congrArg _ (and_ones p)
  · rw [encSeq, encSeq, encBytes_mask]

end Sys2Proof
end

section
/-! PROOF. The decoders undo the encoder (30_encoding.md R71, R77, R80, R84): one command at the front of a list of bytes
or of a trace, then packets, request words and the traces of whole operations. -/

namespace Sys2Proof

/-! ### The bytes of REQ_CFG, the other way -/

/-- Appended words of the same widths tell their parts. -/
theorem of_append_eq_append {v w : Nat} {a a' : BitVec v} {b b' : BitVec w} {P : Prop} (hP : b = b' → a = a' → P)
    (h : a ++ b = a' ++ b') : P := by
  refine hP ?_ ?_
  · simpa only [BitVec.extractLsb'_append_eq_right] using congrArg (BitVec.extractLsb' 0 w) h
  · simpa only [BitVec.extractLsb'_append_eq_left] using congrArg (BitVec.extractLsb' w v) h

/-- Byte by byte, from the lowest up. -/
theorem packCfg_injective : Function.Injective packCfg := by
  rintro ⟨⟩ ⟨⟩
  simp only [packCfg]
  iterate 11
    refine of_append_eq_append ?_
    rintro rfl
  rintro rfl
  rfl

theorem unpackCfg_packCfg (c : Cfg) : unpackCfg (packCfg c) = c :=
  packCfg_injective (packCfg_unpackCfg (packCfg c))

/-! ### Commands as instructions -/

/-- DISPOFF and DISPON have no operand. -/
theorem toInstr_of_command {i : Instr} {c : Cmd} {v : Byte} (h : i.command? = some (c, v)) : c.toInstr v = i := by
  cases i <;> cases h <;> rfl

theorem encode_of_command {i : Instr} {c : Cmd} {v : Byte} (h : i.command? = some (c, v)) (t : Table) :
    encode t i = .command (encBytes t c v) := by
  cases i <;> cases h <;> rfl

/-- A well-formed command's parameter lies inside its mask. -/
theorem and_mask_of_wf {i : Instr} {c : Cmd} {v : Byte} (h : i.command? = some (c, v)) {p : Params}
    (hi : i.wf p = true) : v &&& (p.table.entry c).mask = v := by
  have hcarries : p.table.carries c v = true := by
    cases i
    case dispOff | dispOn =>
      cases h
      simp [Table.carries]
    all_goals
      cases h <;> exact hi
  exact and_eq_self_of_and_not (by simpa [Table.carries] using hcarries)

/-! ### One command -/

theorem isFirstByte_enc1 {t : Table} (ht : t.wf = true) {c : Cmd} (hk : (t.entry c).kind = .one) (p : Byte) :
    (t.entry c).isFirstByte (enc1 t c p) = true := by
  rw [enc1, ← Entry.free_of_one hk]
  exact Entry.isFirstByte_tag_or (Table.tag_and_free_of_wf ht c) p

theorem isFirstByte_tag {t : Table} (ht : t.wf = true) (c : Cmd) : (t.entry c).isFirstByte (t.entry c).tag = true := by
  rw [Entry.isFirstByte_iff]
  exact and_not_eq_self_of_and (Table.tag_and_free_of_wf ht c)

/-- The bytes of a command decode to it, its parameter masked; what stands behind them is left over. -/
theorem decodeCommand_encBytes_append {t : Table} (ht : t.wf = true) (c : Cmd) (p : Byte) (rest : List Byte) :
    decodeCommand t (encBytes t c p ++ rest) = .ok (c.toInstr (p &&& (t.entry c).mask), rest) := by
  cases hk : (t.entry c).kind with
  | one =>
    have hmask : enc1 t c p &&& (t.entry c).mask = p &&& (t.entry c).mask :=
      tag_or_and_mask p (Table.tag_and_mask_of_wf ht hk)
    simp [encBytes_one hk, decodeCommand, commandOf_of_isFirstByte ht (isFirstByte_enc1 ht hk p), hk, hmask]
  | two =>
    simp [encBytes_two hk, decodeCommand, commandOf_of_isFirstByte ht (isFirstByte_tag ht c), hk]

theorem decode_encBytes {t : Table} (ht : t.wf = true) (c : Cmd) (p : Byte) :
    decode t (.command (encBytes t c p)) = .ok (c.toInstr (p &&& (t.entry c).mask)) := by
  have h := decodeCommand_encBytes_append ht c p []
  rw [List.append_nil] at h
  simp [decode, h]

/-- The same in a trace (R84). -/
theorem decodeTraceFrom_encSeq_append {t : Table} (ht : t.wf = true) (c : Cmd) (p : Byte) (es : List Event) :
    decodeTraceFrom t none (encSeq t c p ++ es) =
      .instr (c.toInstr (p &&& (t.entry c).mask)) :: decodeTraceFrom t none es := by
  cases hk : (t.entry c).kind with
  | one =>
    have hmask : enc1 t c p &&& (t.entry c).mask = p &&& (t.entry c).mask :=
      tag_or_and_mask p (Table.tag_and_mask_of_wf ht hk)
    simp [encSeq, encBytes_one hk, decodeTraceFrom, commandOf_of_isFirstByte ht (isFirstByte_enc1 ht hk p), hk, hmask]
  | two =>
    simp [encSeq, encBytes_two hk, decodeTraceFrom, commandOf_of_isFirstByte ht (isFirstByte_tag ht c), hk]

/-- The ranges of 00_scope.md R6. -/
theorem Params.wf_iff (p : Params) : p.wf = true ↔
    1 ≤ p.screenWidthBits ∧ 1 ≤ p.height ∧ p.height ≤ 256 ∧ p.frameBytes < 2 ^ p.lenW ∧ p.table.wf = true := by
  simp [Params.wf, and_assoc]

theorem Params.table_wf {p : Params} (hp : p.wf = true) : p.table.wf = true :=
  ((Params.wf_iff p).mp hp).2.2.2.2

theorem Params.wb_pos {p : Params} (hp : p.wf = true) : 1 ≤ p.wb := by
  obtain ⟨hwidth, -⟩ := (Params.wf_iff p).mp hp
  rw [Params.wb]
  omega

/-- Settles O4: a command by its bytes, every other instruction by its channel and its fields. -/
theorem decodeOfEncodeIsTheInstruction : Obligations.DecodeOfEncodeIsTheInstruction := by
  unfold Obligations.DecodeOfEncodeIsTheInstruction
  intro p i hp hi
  rcases hc : i.command? with _ | ⟨c, v⟩
  · cases i with
    | data d => rfl
    | nop => rfl
    | init cfg =>
      rw [encode, decode_request, Machine.decodeRequest_of_op_eq_one rfl, unpackCfg_packCfg]
    | deinit => rfl
    | display len => rfl
    | _ => cases hc
  · rw [encode_of_command hc, decode_encBytes (Params.table_wf hp), and_mask_of_wf hc hi, toInstr_of_command hc]

end Sys2Proof
end

section
/-! PROOF. Traces of whole operations decode to what was sent (30_encoding.md R84, R85), and the default table, whose
bytes decode without loss (R74 to R77). -/

namespace Sys2Proof

open Machine (initList displayList rowList resetPulse)

/-! ### Traces -/

theorem encSeq_one {t : Table} {c : Cmd} (h : (t.entry c).kind = .one) (p : Byte) :
    encSeq t c p = [.tx .command (enc1 t c p)] := by
  simp [encSeq, encBytes_one h]

section
variable {t : Table} (ht : t.wf = true)
include ht

/-- A command that SEQ sends through Enc1 (log 17). -/
theorem decodeTraceFrom_enc1_cons {c : Cmd} (hk : (t.entry c).kind = .one) (p : Byte) (es : List Event) :
    decodeTraceFrom t none (.tx .command (enc1 t c p) :: es) =
      .instr (c.toInstr (p &&& (t.entry c).mask)) :: decodeTraceFrom t none es := by
  rw [← decodeTraceFrom_encSeq_append ht c p es, encSeq_one hk, List.singleton_append]

theorem decodeTraceFrom_flatMap_encSeq_append (cs : List Cmd) (p : Cmd → Byte) (es : List Event) :
    decodeTraceFrom t none (cs.flatMap (fun c => encSeq t c (p c)) ++ es) =
      (cs.map fun c => Decoded.instr (c.toInstr (p c &&& (t.entry c).mask))) ++ decodeTraceFrom t none es := by
  induction cs with
  | nil => rfl
  | cons c cs ih =>
    rw [List.flatMap_cons, List.append_assoc, decodeTraceFrom_encSeq_append ht, ih, List.map_cons, List.cons_append]
end

theorem decodeTraceFrom_data_append (t : Table) (ns : List Nat) (d : Nat → Byte) (es : List Event) :
    decodeTraceFrom t none (ns.map (fun n => Event.tx .data (d n)) ++ es) =
      ns.map (fun n => Decoded.instr (.data (d n))) ++ decodeTraceFrom t none es := by
  induction ns with
  | nil => rfl
  | cons n ns ih => rw [List.map_cons, List.cons_append, decodeTraceFrom, ih, List.map_cons, List.cons_append]

theorem decodeTraceFrom_resetPulse_append (t : Table) (p : Params) (es : List Event) :
    decodeTraceFrom t none (resetPulse p ++ es) =
      [.line p.resAssert, .delay p.tResetMs, .line (!p.resAssert), .delay p.tResetMs] ++ decodeTraceFrom t none es :=
  rfl

/-- Settles O11: the pulse, DISPOFF, the twelve writes and DISPON, one after the other. -/
theorem initTraceDecodesToTheWrites : Obligations.InitTraceDecodesToTheWrites := by
  unfold Obligations.InitTraceDecodesToTheWrites
  intro p cfg hp
  have ht := Params.table_wf hp
  have hoff := decodeTraceFrom_enc1_cons ht (Table.kind_of_wf ht (c := .dispOff) (by simp)) 0
  have hon := decodeTraceFrom_enc1_cons ht (Table.kind_of_wf ht (c := .dispOn) (by simp)) 0
  rw [decodeTrace, initList, List.append_assoc, List.append_assoc, decodeTraceFrom_resetPulse_append,
    List.singleton_append, hoff, decodeTraceFrom_flatMap_encSeq_append ht, hon]
  rfl

/-- What the trace decoder reads in row `j` of a frame. -/
def decodedRow (p : Params) (fb : Nat → Byte) (j : Nat) : List Decoded :=
  [.instr (.setPage 0), .instr (.setLowCol ((BitVec.ofNat 8 j &&& 0x0F) &&& p.table.setLowCol.mask)),
   .instr (.setHighCol ((BitVec.ofNat 8 j >>> 4) &&& p.table.setHighCol.mask))] ++
  (List.range p.wb).map fun i => .instr (.data (rev8 (fb (i + j * p.wb))))

theorem decodeTraceFrom_rowList_append {p : Params} (hp : p.wf = true) (fb : Nat → Byte) (j : Nat) (es : List Event) :
    decodeTraceFrom p.table none (rowList p fb j ++ es) = decodedRow p fb j ++ decodeTraceFrom p.table none es := by
  have ht := Params.table_wf hp
  have hpage : 0 &&& (p.table.entry .setPage).mask = 0 := BitVec.zero_and
  simp only [rowList, decodedRow, List.cons_append, List.nil_append, hpage,
    decodeTraceFrom_enc1_cons ht (Table.kind_of_wf ht (c := .setPage) (by simp)),
    decodeTraceFrom_enc1_cons ht (Table.kind_of_wf ht (c := .setLowCol) (by simp)),
    decodeTraceFrom_enc1_cons ht (Table.kind_of_wf ht (c := .setHighCol) (by simp)), decodeTraceFrom_data_append]
  rfl

theorem decodeTraceFrom_flatMap_rowList {p : Params} (hp : p.wf = true) (fb : Nat → Byte) (js : List Nat) :
    decodeTraceFrom p.table none (js.flatMap (rowList p fb)) = js.flatMap (decodedRow p fb) := by
  induction js with
  | nil => rfl
  | cons j js ih => rw [List.flatMap_cons, decodeTraceFrom_rowList_append hp, ih, List.flatMap_cons]

/-- Settles O12: row by row. -/
theorem displayTraceDecodesToTheRows : Obligations.DisplayTraceDecodesToTheRows := by
  unfold Obligations.DisplayTraceDecodesToTheRows
  exact fun p fb hp => decodeTraceFrom_flatMap_rowList hp fb (List.range p.height)

/-! ### The default table -/

theorem Table.wf_default : Table.default.wf = true := by decide

/-- What the decoder reads at the front of a list of bytes. A value byte is not looked up. -/
theorem decodeCommand_eq_ok {t : Table} {bytes rest : List Byte} {i : Instr} (h : decodeCommand t bytes = .ok (i, rest)) :
    ∃ c v, i = c.toInstr v ∧
      ((t.entry c).kind = .one ∧ bytes = ((t.entry c).tag ||| v) :: rest ∧ v &&& (t.entry c).mask = v ∨
       (t.entry c).kind = .two ∧ bytes = (t.entry c).tag :: v :: rest) := by
  rcases bytes with _ | ⟨b, bs⟩
  · cases h
  rw [decodeCommand] at h
  split at h
  · cases h
  · rename_i c hc
    have hb := isFirstByte_of_commandOf hc
    split at h
    · rename_i hk
      cases h
      refine ⟨c, _, rfl, .inl ⟨hk, ?_, ?_⟩⟩
      · rw [← Entry.free_of_one hk, Entry.tag_or_of_isFirstByte hb]
      · rw [BitVec.and_assoc, BitVec.and_self]
    · rename_i hk
      have htag : b = (t.entry c).tag := by
        rw [← Entry.tag_or_of_isFirstByte hb, Entry.free_of_two hk]
        simp
      split at h
      · cases h
      · cases h
        exact ⟨c, _, rfl, .inr ⟨hk, by rw [htag]⟩⟩

theorem Table.mask_default_of_two {c : Cmd} (hk : (Table.default.entry c).kind = .two) :
    (Table.default.entry c).mask = 0xFF := by
  revert hk
  cases c <;> decide

/-- DISPOFF and DISPON, which have no operand, have an empty mask. -/
theorem encode_toInstr_default (c : Cmd) (v : Byte) :
    encode Table.default (c.toInstr v) = .command (encBytes Table.default c v) := by
  cases c with
  | dispOff | dispOn => simp [encode, Cmd.toInstr, encBytes, enc1, Table.default, Table.entry]
  | _ => rfl

/-- Settles O5: with the default table a value byte is inside its mask, whatever it is, so no bit is dropped. -/
theorem encodeOfDecodeIsTheBytes : Obligations.EncodeOfDecodeIsTheBytes := by
  unfold Obligations.EncodeOfDecodeIsTheBytes
  refine ⟨fun bytes i h => ?_, fun b i h => ?_⟩
  · have hdec : decodeCommand Table.default bytes = .ok (i, []) := by
      rw [decode] at h
      split at h
      · cases h
      · cases h
        assumption
      · cases h
    obtain ⟨c, v, rfl, ⟨hk, rfl, hv⟩ | ⟨hk, rfl⟩⟩ := decodeCommand_eq_ok hdec
    · rw [encode_toInstr_default, encBytes_one hk, enc1, hv]
    · rw [encode_toInstr_default, encBytes_two hk, Table.mask_default_of_two hk]
      exact congrArg (fun x => Packet.command [_, x]) (and_ones v)
  · cases h
    rfl

theorem firstByte_default_iff (c : Cmd) (b : Byte) :
    Table.default.FirstByte c b ↔ (Table.default.entry c).isFirstByte b = true :=
  Table.firstByte_iff (Table.tag_and_free_of_wf Table.wf_default c) b

/-- Settles O2: each first-byte set of the default table is a masked comparison, here over the 256 bytes. -/
theorem defaultTableMeetsItsConstraints : Obligations.DefaultTableMeetsItsConstraints := by
  unfold Obligations.DefaultTableMeetsItsConstraints
  obtain ⟨htag, huniq, -⟩ := (wellFormedTableSeparatesCommands Table.default).1.mp Table.wf_default
  refine ⟨htag, huniq, ?_, Table.wf_default⟩
  simp only [firstByte_default_iff]
  decide

/-- Settles O6: two of R71's one-byte and two-byte rows each, the data byte and the request words, by evaluation. -/
theorem wordsWrittenOutDecode : Obligations.WordsWrittenOutDecode :=
  ⟨rfl, rfl, rfl, rfl, rfl, rfl, rfl, rfl, rfl, rfl, rfl, rfl⟩

theorem decodeCommand_eq_unknown_iff (t : Table) (b : Byte) (rest : List Byte) :
    decodeCommand t (b :: rest) = .error (.unknownFirstByte b) ↔ commandOf t b = none := by
  rw [decodeCommand]
  split
  · simp [*]
  · rename_i c hc
    simp only [hc, reduceCtorEq, iff_false]
    split
    · simp
    · split <;> simp

/-- Settles O7: a first byte is unknown where the search finds no row, here over the 256 bytes. -/
theorem otherFirstBytesAreUnknown : Obligations.OtherFirstBytesAreUnknown := by
  unfold Obligations.OtherFirstBytesAreUnknown
  intro b rest
  rw [decodeCommand_eq_unknown_iff]
  revert b
  decide

end Sys2Proof
end

section
/-! PROOF. The event lists (42_sequencer.md R147, R155; 30_encoding.md R79): InitList with the default table, the lengths of
the lists, and the contents of DisplayList. -/

namespace Sys2Proof.Machine

/-! ### InitList -/

theorem encSeq_length (t : Table) (c : Cmd) (p : Byte) : (encSeq t c p).length = (t.entry c).length := by
  rw [encSeq, List.length_map, encBytes_length]

/-- The pulse, DISPOFF, one event per byte of the twelve writes, and DISPON (R147). -/
theorem initList_length (p : Params) (cfg : Cfg) : (initList p cfg).length = p.initLen := by
  simp only [initList, List.length_append, List.length_flatMap, encSeq_length]
  rfl

/-- Settles O32: the twelve writes with the rows of the default table. -/
theorem initListEventByEvent : Obligations.InitListEventByEvent := by
  unfold Obligations.InitListEventByEvent
  refine ⟨fun p c hp => ⟨?_, ?_⟩, initList_length⟩
  · simp [initList, resetPulse, Cmd.config, encSeq, encBytes, enc1, enc2, Cfg.param, hp, Table.default, Table.entry]
  · rw [Params.initLen, hp]
    decide

/-! ### DisplayList -/

theorem rowList_length (p : Params) (fb : Nat → Byte) (j : Nat) : (rowList p fb j).length = 3 + p.wb := by
  simp [rowList]
  omega

/-- The bytes of the rows below `h`, each row `w` bytes wide, are those of the frame in order. -/
theorem flatMap_range_rows (fb : Nat → Byte) (w h : Nat) :
    ((List.range h).flatMap fun j => (List.range w).map fun i => fb (i + j * w)) = (List.range (w * h)).map fb := by
  induction h with
  | zero => simp
  | succ h ih =>
    rw [List.range_succ, List.flatMap_append, ih, Nat.mul_succ, List.range_add, List.map_append, List.map_map]
    simp [Function.comp_def, Nat.add_comm, Nat.mul_comm]

/-- Settles O33: three COMMAND bytes and WB DATA bytes for each row; reversing twice gives the buffer's bytes. -/
theorem displayListShape : Obligations.DisplayListShape := by
  unfold Obligations.DisplayListShape
  intro p fb
  refine ⟨?_, ?_, ?_⟩
  · simp [displayList, List.length_flatMap, rowList_length]
  · simp [displayList, List.filter_flatMap, List.length_flatMap, rowList, List.filter_map, Function.comp_def, Nat.mul_comm]
  · rw [Params.frameBytes, ← flatMap_range_rows, displayList, List.filterMap_flatMap]
    simp [rowList, rev8_involutive (fb _)]

@[simp] theorem and_low_nibble (b : Byte) : b &&& 15#8 &&& 15#8 = b &&& 15#8 := by
  rw [BitVec.and_assoc, BitVec.and_self]

@[simp] theorem high_and_nibble (b : Byte) : b >>> 4 &&& 15#8 = b >>> 4 := by
  revert b
  decide

/-- Settles O55: R79's bytes with the rows of the default table. -/
theorem pseudoOperationsExpand : Obligations.PseudoOperationsExpand := by
  unfold Obligations.PseudoOperationsExpand
  intro p fb hp
  refine ⟨rfl, fun _ _ => rfl, fun j _ => ?_, fun j => ?_⟩
  · simp [Pseudo.expand, rowList, enc1, hp, Table.default, Table.entry]
  · simp [Pseudo.expand, rowList, Nat.add_comm]

end Sys2Proof.Machine
end

section
/-! PROOF. The event that the position names (42_sequencer.md R144 i): in INIT and DEINIT the entry of the operation's event
list at STEP (R148, R151), in DISPLAY the address byte or the data byte of the slot (R153, R154). -/

namespace Sys2Proof.Machine

/-! ### Plans and event lists -/

/-- The event of a slot, with the registers of `cfg` as parameters. -/
def Slot.event (t : Table) (cfg : Cfg) : Slot → Event
  | .pulse e => e
  | .cmd c v =>
    match (t.entry c).kind with
    | .one => .tx .command (enc1 t c (cfg.param c))
    | .two => .tx .command (if v then (enc2 t c (cfg.param c)).2 else (enc2 t c (cfg.param c)).1)

/-- The first byte of a command whose parameter is 0, of either KIND. -/
theorem Slot.event_first {cfg : Cfg} {c : Cmd} (h : cfg.param c = 0) (t : Table) :
    Slot.event t cfg (.cmd c false) = .tx .command (enc1 t c 0) := by
  cases hk : (t.entry c).kind <;> simp [Slot.event, hk, h, enc1, enc2]

theorem cmdSlots_map_event (t : Table) (cfg : Cfg) (c : Cmd) :
    (cmdSlots t c).map (Slot.event t cfg) = encSeq t c (cfg.param c) := by
  cases hk : (t.entry c).kind <;> simp [cmdSlots, encSeq, encBytes, Slot.event, hk]

theorem initPlan_map_event (p : Params) (cfg : Cfg) :
    (initPlan p).map (Slot.event p.table cfg) = initList p cfg := by
  simp only [initPlan, initList, List.map_append, List.map_flatMap, cmdSlots_map_event, List.map_cons, List.map_nil,
    Slot.event_first (cfg := cfg) (c := .dispOff) rfl, Slot.event_first (cfg := cfg) (c := .dispOn) rfl]
  rfl

theorem deinitPlan_map_event (p : Params) (cfg : Cfg) :
    (deinitPlan p).map (Slot.event p.table cfg) = deinitList p := by
  simp only [deinitPlan, deinitList, List.map_append, List.map_cons, List.map_nil,
    Slot.event_first (cfg := cfg) (c := .dispOff) rfl]
  rfl

/-! ### INIT and DEINIT -/

theorem fetch_of_slot {s : State} (ho : s.op = .init ∨ s.op = .deinit) : s.fetch = s.fetchSlot := by
  rcases ho with ho | ho <;> simp [State.fetch, ho]

/-- DISPOFF and DISPON carry no register of CFG. -/
theorem command_toInstr_param (cfg : Cfg) (c : Cmd) : (c.toInstr (cfg.param c)).command? = some (c, cfg.param c) := by
  cases c <;> rfl

theorem commandByte_eq_event {s : State} {c : Cmd} {v : Bool} (h : s.slot? = some (.cmd c v)) :
    .tx .command (s.commandByte c (s.cfg.param c)) = Slot.event s.par.table s.cfg (.cmd c v) := by
  have hv : s.atValueByte = v := by simp [State.atValueByte, h]
  cases hk : (s.par.table.entry c).kind <;> simp [State.commandByte, Slot.event, hk, hv]

theorem nextEvent_of_slot {s : State} (ho : s.op = .init ∨ s.op = .deinit) :
    s.nextEvent = s.slot?.map (Slot.event s.par.table s.cfg) := by
  have hfetch := fetch_of_slot ho
  rcases hs : s.slot? with _ | e | ⟨c, v⟩
  · simp [State.nextEvent, hfetch, State.fetchSlot, hs]
  · simp [State.nextEvent, hfetch, State.fetchSlot, hs, Slot.event]
  · simp [State.nextEvent, hfetch, State.fetchSlot, hs, command_toInstr_param, commandByte_eq_event hs]

theorem nextEvent_init {s : State} (ho : s.op = .init) : s.nextEvent = (initList s.par s.cfg)[s.stepNo]? := by
  rw [nextEvent_of_slot (.inl ho), ← initPlan_map_event, List.getElem?_map]
  simp [State.slot?, ho]

theorem nextEvent_deinit {s : State} (ho : s.op = .deinit) : s.nextEvent = (deinitList s.par)[s.stepNo]? := by
  rw [nextEvent_of_slot (.inr ho), ← deinitPlan_map_event s.par s.cfg, List.getElem?_map]
  simp [State.slot?, ho]

theorem exists_nextEvent_init {s : State} (ho : s.op = .init) (hn : s.stepNo < s.par.initLen) :
    ∃ e, s.nextEvent = some e := by
  rw [nextEvent_init ho]
  exact ⟨_, List.getElem?_eq_getElem (by rwa [initList_length])⟩

theorem exists_nextEvent_deinit {s : State} (ho : s.op = .deinit) (hn : s.stepNo < Params.deinitLen) :
    ∃ e, s.nextEvent = some e := by
  rw [nextEvent_deinit ho]
  exact ⟨_, List.getElem?_eq_getElem hn⟩

/-- A list that begins with the pulse and goes on with COMMAND bytes. -/
theorem initList_eq (p : Params) (cfg : Cfg) : ∃ bs : List Byte, initList p cfg = resetPulse p ++ bs.map (.tx .command) :=
  ⟨enc1 p.table .dispOff 0 :: (Cmd.config.flatMap fun c => encBytes p.table c (cfg.param c)) ++ [enc1 p.table .dispOn 0],
    by simp [initList, encSeq, List.map_flatMap]⟩

theorem deinitList_eq (p : Params) : ∃ bs : List Byte, deinitList p = resetPulse p ++ bs.map (.tx .command) :=
  ⟨[enc1 p.table .dispOff 0], rfl⟩

/-- INIT and DEINIT begin with the pulse and go on with COMMAND bytes. -/
theorem nextEvent_init_or_deinit {s : State} {e : Event} (ho : s.op = .init ∨ s.op = .deinit)
    (he : s.nextEvent = some e) : (resetPulse s.par)[s.stepNo]? = some e ∨ 4 ≤ s.stepNo ∧ ∃ b, e = .tx .command b := by
  have hlist : ∃ bs : List Byte, (resetPulse s.par ++ bs.map (.tx .command))[s.stepNo]? = some e := by
    rcases ho with ho | ho
    · obtain ⟨bs, hbs⟩ := initList_eq s.par s.cfg
      exact ⟨bs, by rw [← hbs, ← nextEvent_init ho, he]⟩
    · obtain ⟨bs, hbs⟩ := deinitList_eq s.par
      exact ⟨bs, by rw [← hbs, ← nextEvent_deinit ho, he]⟩
  obtain ⟨bs, hbs⟩ := hlist
  by_cases hn : s.stepNo < 4
  · rw [List.getElem?_append_left hn] at hbs
    exact .inl hbs
  · rw [List.getElem?_append_right (Nat.le_of_not_lt hn)] at hbs
    obtain ⟨b, -, rfl⟩ := List.mem_map.mp (List.mem_of_getElem? hbs)
    exact .inr ⟨Nat.le_of_not_lt hn, b, rfl⟩

/-! ### DISPLAY -/

/-- The COMMAND byte of an addressing slot (42_sequencer.md R153). -/
def State.addressByte (s : State) : Byte :=
  match s.stepNo with
  | 0 => s.commandByte .setPage 0
  | 1 => s.commandByte .setLowCol s.rowLow
  | _ => s.commandByte .setHighCol s.rowHigh

theorem nextEvent_address {s : State} (ho : s.op = .display) (hrow : s.row.toNat < s.par.height) (hn : s.stepNo ≤ 2) :
    s.nextEvent = some (.tx .command s.addressByte) := by
  have hin : s.row.toNat < s.par.height ∧ s.stepNo ≤ s.par.wb + 2 := ⟨hrow, by omega⟩
  have hcases : s.stepNo = 0 ∨ s.stepNo = 1 ∨ s.stepNo = 2 := by omega
  rcases hcases with h | h | h <;>
    simp [State.nextEvent, State.fetch, ho, State.fetchDisplay, hin, h, State.addressByte, Instr.command?]

section
variable {s : State} (ht : s.par.table.wf = true)
include ht

theorem addressByte_of_slot_zero (h : s.stepNo = 0) : s.addressByte = enc1 s.par.table .setPage 0 := by
  simp [State.addressByte, h, State.commandByte_one (Table.kind_of_wf ht (c := .setPage) (by simp))]

theorem addressByte_of_slot_one (h : s.stepNo = 1) : s.addressByte = enc1 s.par.table .setLowCol (s.row &&& 0x0F) := by
  simp [State.addressByte, h, State.commandByte_one (Table.kind_of_wf ht (c := .setLowCol) (by simp)), State.rowLow]

theorem addressByte_of_slot_two (h : s.stepNo = 2) : s.addressByte = enc1 s.par.table .setHighCol (s.row >>> 4) := by
  simp [State.addressByte, h, State.commandByte_one (Table.kind_of_wf ht (c := .setHighCol) (by simp)), State.rowHigh]

/-- With a well-formed table an addressing slot sends the event of R153's list. -/
theorem addressByte_eq (hn : s.stepNo ≤ 2) (fb : Nat → Byte) :
    (rowList s.par fb s.row.toNat)[s.stepNo]? = some (.tx .command s.addressByte) := by
  have hcases : s.stepNo = 0 ∨ s.stepNo = 1 ∨ s.stepNo = 2 := by omega
  rcases hcases with h | h | h
  · simp [rowList, h, addressByte_of_slot_zero ht h]
  · simp [rowList, h, addressByte_of_slot_one ht h]
  · simp [rowList, h, addressByte_of_slot_two ht h]
end

theorem fetch_data_slot {s : State} (ho : s.op = .display) (hrow : s.row.toNat < s.par.height)
    (h3 : 3 ≤ s.stepNo) (hn : s.stepNo ≤ s.par.wb + 2) :
    s.fetch = .instr (.data (s.slotByte (s.fb.read s.dataOffset))) := by
  refine (fetch_atDataSlot (by simp [State.atDataSlot, ho, h3])).resolve_left fun h => ?_
  simp only [State.fetch, ho, State.fetchDisplay, hrow, hn, and_self, if_true] at h
  split at h <;> cases h

theorem nextEvent_data_slot {s : State} (ho : s.op = .display) (hrow : s.row.toNat < s.par.height)
    (h3 : 3 ≤ s.stepNo) (hn : s.stepNo ≤ s.par.wb + 2) :
    s.nextEvent = some (.tx .data (s.slotByte (s.fb.read s.dataOffset))) := by
  simp [State.nextEvent, fetch_data_slot ho hrow h3 hn, Instr.command?]

/-- A position of DISPLAY that names an event lies inside the frame. -/
theorem position_of_nextEvent_display {s : State} {e : Event} (ho : s.op = .display) (he : s.nextEvent = some e) :
    s.row.toNat < s.par.height ∧ s.stepNo ≤ s.par.wb + 2 := by
  by_contra hn
  simp [State.nextEvent, State.fetch, ho, State.fetchDisplay, hn] at he

theorem nextEvent_display_tx {s : State} {e : Event} (ho : s.op = .display) (he : s.nextEvent = some e) :
    ∃ m b, e = .tx m b := by
  obtain ⟨hrow, hn⟩ := position_of_nextEvent_display ho he
  by_cases h3 : 3 ≤ s.stepNo
  · rw [nextEvent_data_slot ho hrow h3 hn] at he
    cases he
    exact ⟨_, _, rfl⟩
  · rw [nextEvent_address ho hrow (by omega)] at he
    cases he
    exact ⟨_, _, rfl⟩

/-! ### The reset line -/

/-- Only the first and the third event of the pulse drive the reset line (42_sequencer.md R145). -/
theorem perform_res_of_nextEvent {s : State} {e : Event} (he : s.nextEvent = some e) :
    (s.perform e).res =
      if (s.op = .init ∨ s.op = .deinit) ∧ s.stepNo = 0 then s.par.resAssert
      else if (s.op = .init ∨ s.op = .deinit) ∧ s.stepNo = 2 then !s.par.resAssert
      else s.res := by
  by_cases ho : s.op = .init ∨ s.op = .deinit
  · rcases nextEvent_init_or_deinit ho he with hp | ⟨h4, b, rfl⟩
    · have hn : s.stepNo < 4 := (List.getElem?_eq_some_iff.mp hp).1
      have hcases : s.stepNo = 0 ∨ s.stepNo = 1 ∨ s.stepNo = 2 ∨ s.stepNo = 3 := by omega
      rcases hcases with h | h | h | h <;> simp [resetPulse, h] at hp <;> subst hp <;> simp [h, ho]
    · simp [show ¬ s.stepNo = 0 by omega, show ¬ s.stepNo = 2 by omega]
  · have hop : s.op = .display := by
      have hidle := op_of_nextEvent he
      cases h : s.op <;> simp_all
    obtain ⟨m, b, rfl⟩ := nextEvent_display_tx hop he
    simp [ho]

/-! ### A step at a position that names an event -/

section
variable {s : State} {e : Event} (hr : s.rstIn = false) (hf : s.fault = false)
  (hin : s.atDataSlot = true → s.dataOffset < s.lenR) (he : s.nextEvent = some e)
include hr hf hin he

/-- Where the environment answers, the step performs the event. -/
theorem step_performs (ha : s.answered e = true) : step s = .next (s.seqStep e) := by
  rw [step_nextEvent hr hf hin he]
  exact State.emit_enabled e (State.enabled_iff.mpr ⟨op_of_nextEvent he, hf⟩) ha

/-- Where it does not, the step waits in the event. -/
theorem step_waits (ha : s.answered e = false) : step s = .next (s.await e) := by
  rw [step_nextEvent hr hf hin he]
  exact State.emit_waits e (State.enabled_iff.mpr ⟨op_of_nextEvent he, hf⟩) ha
end

theorem atDataSlot_iff {s : State} : s.atDataSlot = true ↔ s.op = .display ∧ 3 ≤ s.stepNo := by
  simp [State.atDataSlot]

end Sys2Proof.Machine
end

section
/-! PROOF. The invariant (10_state.md R35): what a step of SEQ keeps of it, conjunct by conjunct, what acceptance, waiting,
the fault entry and the block reset keep, and from these every step and every act; then what follows from it. -/

namespace Sys2Proof.Machine

/-! ### Acceptance -/

theorem reqOp_cases : ∀ op : BitVec 2, op = 0 ∨ op = 1 ∨ op = 2 ∨ op = 3 := by
  decide

/-- The effect of the request of a word on a ready block (42_sequencer.md R141, R143). -/
def reqEffect (w : ReqWord) : State → State :=
  match w.op.toNat with
  | 0 => id
  | 1 => fun s => ((s.latchCfg (unpackCfg w.cfg)).setLife .resetting).setPc .init 0 0
  | 2 => State.setPc .deinit 0 0
  | _ => fun s => (s.latchLen w.len).setPc .display 0 0

theorem exec_decodeRequest (w : ReqWord) (s : State) : exec (decodeRequest w) s = s.accept (reqEffect w) := by
  obtain ⟨op, cfg, len⟩ := w
  rcases reqOp_cases op with rfl | rfl | rfl | rfl <;> rfl

theorem reqEffect_cases (w : ReqWord) (s : State) :
    (w.op = 0 ∧ reqEffect w s = s) ∨
    (w.op = 1 ∧ reqEffect w s = ((s.latchCfg (unpackCfg w.cfg)).setLife .resetting).setPc .init 0 0) ∨
    (w.op = 2 ∧ reqEffect w s = s.setPc .deinit 0 0) ∨
    (w.op = 3 ∧ reqEffect w s = (s.latchLen w.len).setPc .display 0 0) := by
  obtain ⟨op, cfg, len⟩ := w
  rcases reqOp_cases op with rfl | rfl | rfl | rfl
  · exact .inl ⟨rfl, rfl⟩
  · exact .inr (.inl ⟨rfl, rfl⟩)
  · exact .inr (.inr (.inl ⟨rfl, rfl⟩))
  · exact .inr (.inr (.inr ⟨rfl, rfl⟩))

theorem exec_request_ready {s t : State} {w : ReqWord} (hr : s.ready = true) (h : exec (decodeRequest w) s = .next t) :
    t = reqEffect w s := by
  rw [exec_decodeRequest, State.accept_ready _ hr] at h
  cases h
  rfl

/-! ### Positions -/

/-- STEP fits its register wherever the position is one of R35 (10_state.md R22). -/
theorem stepNo_lt_of_positionOk {s : State} (h : s.positionOk) : s.stepNo < 2 ^ s.par.stepW := by
  have hinit := four_lt_initLen s.par
  have hdeinit : Params.deinitLen = 5 := rfl
  have hmax : s.stepNo ≤ max (s.par.initLen - 1) (s.par.wb + 2) := by
    unfold State.positionOk at h
    split at h <;> omega
  exact Nat.lt_of_le_of_lt hmax Nat.lt_log2_self

/-- The position, LIFE and INITIALIZED of a state: what an advance writes. -/
def State.StandsAt (t : State) (o : Op) (r : BitVec 8) (n : Nat) (l : Life) (b : Bool) : Prop :=
  t.op = o ∧ t.row = r ∧ t.stepNo = n ∧ t.life = l ∧ t.initialized = b

/-- Everything the advance of a step of SEQ can do. -/
theorem State.seqStep_cases {s : State} (e : Event) (ho : s.op ≠ .idle) :
    (s.op = .init ∧ s.stepNo + 1 < s.par.initLen ∧ (s.seqStep e).StandsAt .init s.row (s.stepNo + 1)
      (if s.stepNo = 3 then .config else s.life) s.initialized) ∨
    (s.op = .init ∧ ¬ s.stepNo + 1 < s.par.initLen ∧ (s.seqStep e).StandsAt .idle 0 0 .on true) ∨
    (s.op = .deinit ∧ s.stepNo + 1 < Params.deinitLen ∧
      (s.seqStep e).StandsAt .deinit s.row (s.stepNo + 1) s.life s.initialized) ∨
    (s.op = .deinit ∧ ¬ s.stepNo + 1 < Params.deinitLen ∧ (s.seqStep e).StandsAt .idle 0 0 .deinit false) ∨
    (s.op = .display ∧ s.stepNo < s.par.wb + 2 ∧
      (s.seqStep e).StandsAt .display s.row (s.stepNo + 1) s.life s.initialized) ∨
    (s.op = .display ∧ ¬ s.stepNo < s.par.wb + 2 ∧ s.row.toNat + 1 < s.par.height ∧
      (s.seqStep e).StandsAt .display (s.row + 1) 0 s.life s.initialized) ∨
    (s.op = .display ∧ ¬ s.stepNo < s.par.wb + 2 ∧ ¬ s.row.toNat + 1 < s.par.height ∧
      (s.seqStep e).StandsAt .idle 0 0 s.life s.initialized) := by
  cases hop : s.op with
  | idle => exact absurd hop ho
  | init =>
    by_cases hn : s.stepNo + 1 < s.par.initLen
    · exact .inl ⟨rfl, hn, State.seqStep_init_mid e hop hn⟩
    · exact .inr (.inl ⟨rfl, hn, State.seqStep_init_last e hop hn⟩)
  | deinit =>
    by_cases hn : s.stepNo + 1 < Params.deinitLen
    · exact .inr (.inr (.inl ⟨rfl, hn, State.seqStep_deinit_mid e hop hn⟩))
    · exact .inr (.inr (.inr (.inl ⟨rfl, hn, State.seqStep_deinit_last e hop hn⟩)))
  | display =>
    by_cases hn : s.stepNo < s.par.wb + 2
    · exact .inr (.inr (.inr (.inr (.inl ⟨rfl, hn, State.seqStep_display_slot e hop hn⟩))))
    by_cases hrow : s.row.toNat + 1 < s.par.height
    · exact .inr (.inr (.inr (.inr (.inr (.inl ⟨rfl, hn, hrow, State.seqStep_display_row e hop hn hrow⟩)))))
    · exact .inr (.inr (.inr (.inr (.inr (.inr ⟨rfl, hn, hrow, State.seqStep_display_last e hop hn hrow⟩)))))

/-- A step of SEQ goes on with its operation or ends it. -/
theorem op_seqStep {s : State} (e : Event) (ho : s.op ≠ .idle) : (s.seqStep e).op = s.op ∨ (s.seqStep e).op = .idle := by
  rcases State.seqStep_cases e ho with ⟨hs, -, hop, -⟩ | ⟨-, -, hop, -⟩ | ⟨hs, -, hop, -⟩ | ⟨-, -, hop, -⟩ |
    ⟨hs, -, hop, -⟩ | ⟨hs, -, -, hop, -⟩ | ⟨-, -, -, hop, -⟩
  · exact .inl (hop.trans hs.symm)
  · exact .inr hop
  · exact .inl (hop.trans hs.symm)
  · exact .inr hop
  · exact .inl (hop.trans hs.symm)
  · exact .inl (hop.trans hs.symm)
  · exact .inr hop

/-! ### The invariant after a step of SEQ -/

/-- Idle is always at row 0 and step 0. -/
theorem positionOk_of_idle {s : State} {l : Life} {b : Bool} (h : s.StandsAt .idle 0 0 l b) : s.positionOk := by
  obtain ⟨hop, hrow, hn, -⟩ := h
  simp only [State.positionOk, hop]
  exact ⟨hrow, hn⟩

/-- A step of SEQ goes to a position of R35 (42_sequencer.md R148 to R155). -/
theorem seqStep_positionOk {s : State} (e : Event) (ho : s.op ≠ .idle) (h : s.positionOk) : (s.seqStep e).positionOk := by
  unfold State.positionOk at h
  rcases State.seqStep_cases e ho with ⟨hop, hn, hop', hrow', hn', hlife', -⟩ | ⟨-, -, ht⟩ |
    ⟨hop, hn, hop', hrow', hn', -⟩ | ⟨-, -, ht⟩ | ⟨hop, hn, hop', hrow', hn', -⟩ | ⟨hop, -, hlast, hop', hrow', hn', -⟩ |
    ⟨-, -, -, ht⟩
  · simp only [hop] at h
    obtain ⟨hrow, -, hlife⟩ := h
    simp only [State.positionOk, hop', hrow', hn', hlife', State.seqStep_par, hrow, hn, hlife, true_and]
    grind
  · exact positionOk_of_idle ht
  · simp only [hop] at h
    simp only [State.positionOk, hop', hrow', hn']
    exact ⟨h.1, hn⟩
  · exact positionOk_of_idle ht
  · simp only [hop] at h
    simp only [State.positionOk, hop', hrow', hn', State.seqStep_par]
    exact ⟨h.1, hn⟩
  · simp only [State.positionOk, hop', hrow', hn', State.seqStep_par, BitVec.toNat_add]
    exact ⟨Nat.lt_of_le_of_lt (Nat.mod_le _ _) hlast, Nat.zero_le _⟩
  · exact positionOk_of_idle ht

/-- Only the last step of INIT writes ON, and it sets INITIALIZED too (42_sequencer.md R149). -/
theorem seqStep_onIsInit {s : State} (e : Event) (ho : s.op ≠ .idle) (h : s.life = .on → s.initialized = true) :
    (s.seqStep e).life = .on → (s.seqStep e).initialized = true := by
  rcases State.seqStep_cases e ho with ⟨-, -, -, -, -, hlife, hinit⟩ | ⟨-, -, -, -, -, hlife, hinit⟩ |
    ⟨-, -, -, -, -, hlife, hinit⟩ | ⟨-, -, -, -, -, hlife, hinit⟩ | ⟨-, -, -, -, -, hlife, hinit⟩ |
    ⟨-, -, -, -, -, -, hlife, hinit⟩ | ⟨-, -, -, -, -, -, hlife, hinit⟩ <;> rw [hlife, hinit]
  · split
    · simp
    · exact h
  · simp
  · exact h
  · simp
  · exact h
  · exact h
  · exact h

/-- The line is held exactly while STEP is 1 or 2 (42_sequencer.md R145). -/
theorem seqStep_resetLineOk {s : State} {e : Event} (he : s.nextEvent = some e) (h : s.resetLineOk) :
    (s.seqStep e).resetLineOk := by
  have hinit := four_lt_initLen s.par
  have hdeinit : Params.deinitLen = 5 := rfl
  have hres := perform_res_of_nextEvent he
  unfold State.resetLineOk at h ⊢
  rw [State.seqStep_par, State.seqStep_res, hres]
  rcases State.seqStep_cases e (op_of_nextEvent he) with ⟨hop, -, hop', -, hn', -⟩ | ⟨hop, hn, hop', -⟩ |
    ⟨hop, -, hop', -, hn', -⟩ | ⟨hop, hn, hop', -⟩ | ⟨hop, -, hop', -⟩ | ⟨hop, -, -, hop', -⟩ | ⟨hop, -, -, hop', -⟩ <;>
    simp only [hop, hop', reduceCtorEq, or_self, or_false, false_or, true_and, false_and, if_false, iff_false] at h ⊢
  · rw [hn']
    split_ifs <;> grind
  · split_ifs <;> grind
  · rw [hn']
    split_ifs <;> grind
  · split_ifs <;> grind
  · exact h
  · exact h
  · exact h

/-! ### The other ways a step can go -/

theorem fCode_of_faultOk {s : State} (h : s.faultOk) (hf : s.fault = false) : s.fCode = .none := by
  simpa [State.faultOk, hf] using h

theorem faultOk_of_not_fault {s : State} (hf : s.fault = false) (hc : s.fCode = .none) : s.faultOk := by
  simpa [State.faultOk, hf] using hc

theorem handedOk_of_none {s : State} (h : s.handed = none) : s.handedOk := fun hn => absurd h hn

/-- The event of a data slot is a DATA byte. -/
theorem nextEvent_atDataSlot {s : State} {e : Event} (hslot : s.atDataSlot = true) (he : s.nextEvent = some e) :
    ∃ b, e = .tx .data b := by
  rcases fetch_atDataSlot hslot with hfetch | hfetch <;> simp [State.nextEvent, hfetch, Instr.command?] at he
  exact ⟨_, he.symm⟩

/-- The offset of a data slot of the frame lies inside the frame (20_memory.md R53). -/
theorem offset_lt_frameBytes {p : Params} {j n : Nat} (hj : j < p.height) (h3 : 3 ≤ n) (hn : n ≤ p.wb + 2) :
    n - 3 + j * p.wb < p.frameBytes := by
  have hrows : (j + 1) * p.wb ≤ p.height * p.wb := Nat.mul_le_mul_right _ hj
  rw [Nat.succ_mul] at hrows
  rw [Params.frameBytes, Nat.mul_comm p.wb]
  omega

theorem dataOffset_lt_frameBytes {s : State} (hrow : s.row.toNat < s.par.height) (h3 : 3 ≤ s.stepNo)
    (hn : s.stepNo ≤ s.par.wb + 2) : s.dataOffset < s.par.frameBytes :=
  offset_lt_frameBytes hrow h3 hn

/-- The invariant where STEP is 0 and nothing is at the transport: the start of an operation, and block reset. -/
theorem State.Inv.of_start {s : State} (params : s.par.wf = true) (memory : s.fb.wf = true) (position : s.positionOk)
    (onIsInit : s.life = .on → s.initialized = true) (hn : s.stepNo = 0) (hres : s.res ≠ s.par.resAssert)
    (hf : s.fault = false) (hc : s.fCode = .none) (hh : s.handed = none) (lenWidth : s.lenR < 2 ^ s.par.lenW)
    (infoWidth : s.fInfo < 2 ^ s.par.lenW) (requests : ∀ w ∈ s.host, w.wf s.par = true) : s.Inv where
  params := params
  memory := memory
  position := position
  onIsInit := onIsInit
  resetLine := by simp [State.resetLineOk, hn, hres]
  faults := faultOk_of_not_fault hf hc
  handover := handedOk_of_none hh
  stepWidth := stepNo_lt_of_positionOk position
  lenWidth := lenWidth
  infoWidth := infoWidth
  requests := requests

namespace State.Inv

variable {s : State} (h : s.Inv)
include h

theorem seqStep {e : Event} (hf : s.fault = false) (he : s.nextEvent = some e) : (s.seqStep e).Inv := by
  have hbusy := op_of_nextEvent he
  have hpos := seqStep_positionOk e hbusy h.position
  exact {
    params := by simpa using h.params
    memory := by simpa using h.memory
    position := hpos
    onIsInit := seqStep_onIsInit e hbusy h.onIsInit
    resetLine := seqStep_resetLineOk he h.resetLine
    faults := faultOk_of_not_fault (by simpa using hf) (by simpa using fCode_of_faultOk h.faults hf)
    handover := handedOk_of_none (by simp)
    stepWidth := stepNo_lt_of_positionOk hpos
    lenWidth := by simpa using h.lenWidth
    infoWidth := by simpa using h.infoWidth
    requests := by simpa using h.requests }

/-- A byte that is handed over while the block waits is that of a data slot inside the buffer. -/
theorem await_handedOk {e : Event} (hin : s.atDataSlot = true → s.dataOffset < s.lenR) (he : s.nextEvent = some e) :
    (s.await e).handedOk := by
  rcases e with _ | _ | ⟨_ | _, b⟩
  · exact h.handover
  · exact h.handover
  · refine handedOk_of_none (by_contra fun hn => ?_)
    obtain ⟨hop, h3, -⟩ := h.handover hn
    obtain ⟨d, hd⟩ := nextEvent_atDataSlot (atDataSlot_iff.mpr ⟨hop, h3⟩) he
    cases hd
  · obtain ⟨hslot, -⟩ := nextEvent_data he
    obtain ⟨hop, h3⟩ := atDataSlot_iff.mp hslot
    cases hb : s.byteAtHand with
    | false =>
      rw [State.await_data_unread b hb]
      exact h.handover
    | true =>
      rw [State.await_data_read b hb]
      exact fun _ => ⟨hop, h3, hin hslot, rfl⟩

theorem await {e : Event} (hin : s.atDataSlot = true → s.dataOffset < s.lenR) (he : s.nextEvent = some e) :
    (s.await e).Inv := by
  have hhanded := h.await_handedOk hin he
  rw [State.await_eq s e] at hhanded ⊢
  exact { h with handover := hhanded }

theorem raise (hop : s.op = .display) (h3 : 3 ≤ s.stepNo) (hn : s.stepNo ≤ s.par.wb + 2)
    (hrow : s.row.toNat < s.par.height) (hout : s.lenR ≤ s.dataOffset) : (s.raise .fbOutOfBounds s.dataOffset).Inv :=
  { h with
    faults := ⟨rfl, hop, h3, rfl, hout⟩
    infoWidth := by
      obtain ⟨-, -, -, hframe, -⟩ := (Params.wf_iff s.par).mp h.params
      exact Nat.lt_trans (dataOffset_lt_frameBytes hrow h3 hn) hframe }

theorem blockReset : s.blockReset.Inv :=
  .of_start h.params h.memory ⟨rfl, rfl⟩ nofun rfl (Bool.not_ne_self _) rfl rfl rfl
    (Nat.mod_lt _ (Nat.two_pow_pos _)) (Nat.mod_lt _ (Nat.two_pow_pos _)) h.requests

theorem takeRequest : s.takeRequest.Inv :=
  { h with requests := fun w hw => h.requests w (List.mem_of_mem_tail hw) }

/-- An accepted request starts at the first position of its operation, and its length fits LENR. -/
theorem accept {t : State} {w : ReqWord} (hr : s.ready = true) (hw : w.wf s.par = true)
    (ht : exec (decodeRequest w) s = .next t) : t.Inv := by
  obtain ⟨ho, hf⟩ := State.ready_iff.mp hr
  have hres : s.res ≠ s.par.resAssert := by simpa [State.resetLineOk, ho] using h.resetLine
  have hc := fCode_of_faultOk h.faults hf
  have hhanded : s.handed = none := by_contra fun hn => by simpa [ho] using (h.handover hn).1
  rw [exec_request_ready hr ht]
  rcases reqEffect_cases w s with ⟨-, he⟩ | ⟨-, he⟩ | ⟨-, he⟩ | ⟨-, he⟩ <;> rw [he]
  · exact h
  · exact .of_start h.params h.memory ⟨rfl, Nat.zero_lt_of_lt (four_lt_initLen s.par), rfl⟩ nofun rfl hres hf hc hhanded
      h.lenWidth h.infoWidth h.requests
  · exact .of_start h.params h.memory ⟨rfl, Nat.zero_lt_succ 4⟩ h.onIsInit rfl hres hf hc hhanded h.lenWidth h.infoWidth
      h.requests
  · obtain ⟨-, hheight, -⟩ := (Params.wf_iff s.par).mp h.params
    exact .of_start h.params h.memory ⟨hheight, Nat.zero_le _⟩ h.onIsInit rfl hres hf hc hhanded
      (by simpa [ReqWord.wf] using hw) h.infoWidth h.requests

end State.Inv

/-! ### Every step and every act -/

/-- Settles O42: each way a step can go keeps the invariant. -/
theorem everyStepKeepsTheInvariant : Obligations.EveryStepKeepsTheInvariant := by
  unfold Obligations.EveryStepKeepsTheInvariant
  intro s t h hstep
  rcases step_cases hstep with ⟨-, rfl⟩ | ⟨-, rfl, -⟩ | ⟨-, hf, ho, w, rest, hh, hex⟩ |
    ⟨-, hf, -, -, e, he, -, rfl⟩ | ⟨-, -, -, hin, e, he, -, rfl⟩ | ⟨-, -, hop, h3, hn, hrow, hout, rfl⟩
  · exact h.blockReset
  · exact h
  · exact h.takeRequest.accept (State.ready_iff.mpr ⟨ho, hf⟩) (h.requests w (by simp [hh])) hex
  · exact h.seqStep hf he
  · exact h.await hin he
  · exact h.raise hop h3 hn hrow hout

/-- Settles O43: an act writes one field that is not the block's. -/
theorem hostActsKeepTheInvariant : Obligations.HostActsKeepTheInvariant := by
  unfold Obligations.HostActsKeepTheInvariant
  intro s a h hfits
  cases a with
  | present w =>
    refine { h with requests := fun v hv => ?_ }
    rcases List.mem_append.mp hv with hv | hv
    · exact h.requests v hv
    · rw [List.mem_singleton.mp hv]
      exact hfits w rfl
  | store off b => exact { h with memory := Memory.wf_write off b h.memory }
  | assertReset => exact { h with }
  | setEnv e => exact { h with }

/-- Settles O41: at reset the block is at the start of nothing, with parameters and registers in their ranges. -/
theorem invariantHoldsAtReset : Obligations.InvariantHoldsAtReset := by
  unfold Obligations.InvariantHoldsAtReset
  exact .of_start (by decide) rfl ⟨rfl, rfl⟩ nofun rfl nofun rfl rfl rfl (by decide) (by decide) nofun

/-! ### What the invariant gives -/

/-- The position of a busy block names an event (10_state.md R35). -/
theorem nextEvent_of_positionOk {s : State} (ho : s.op ≠ .idle) (h : s.positionOk) : ∃ e, s.nextEvent = some e := by
  unfold State.positionOk at h
  cases hop : s.op with
  | idle => exact absurd hop ho
  | init =>
    simp only [hop] at h
    exact exists_nextEvent_init hop h.2.1
  | deinit =>
    simp only [hop] at h
    exact exists_nextEvent_deinit hop h.2
  | display =>
    simp only [hop] at h
    by_cases h3 : 3 ≤ s.stepNo
    · exact ⟨_, nextEvent_data_slot hop h.1 h3 h.2⟩
    · exact ⟨_, nextEvent_address hop h.1 (by omega)⟩

/-- A position that names an event has a step. -/
theorem goesOn_of_nextEvent {s : State} {e : Event} (hr : s.rstIn = false) (hf : s.fault = false)
    (he : s.nextEvent = some e) : s.goesOn := by
  rw [State.goesOn, step_fetch hr hf]
  cases hfetch : s.fetch with
  | wait => exact ⟨_, rfl⟩
  | instr i => exact exec_next i s.afterFetch
  | pulse e => exact State.emit_next s e
  | nothing => simp [State.nextEvent, hfetch] at he

/-- Settles O44: the step is the block reset, nothing, an acceptance, or the event that the position names. -/
theorem machineNeverStops : Obligations.MachineNeverStops := by
  unfold Obligations.MachineNeverStops
  intro s h
  cases hr : s.rstIn with
  | true => exact ⟨_, step_reset hr⟩
  | false =>
  cases hf : s.fault with
  | true => exact ⟨_, step_faulted hr hf⟩
  | false =>
  by_cases ho : s.op = .idle
  · cases hh : s.host with
    | nil => exact ⟨_, step_idle hr hf ho hh⟩
    | cons w rest =>
      rw [State.goesOn, step_request hr hf ho hh]
      exact exec_next _ _
  · obtain ⟨e, he⟩ := nextEvent_of_positionOk ho h.position
    exact goesOn_of_nextEvent hr hf he

/-! ### The status word (10_state.md R30) -/

section
variable (s : State)

theorem State.statusWord_busy : s.statusWord.getLsbD 0 = s.busy := by
  rw [State.statusWord, BitVec.getLsbD_append]
  exact BitVec.getLsbD_ofBool _ _

theorem State.statusWord_initialized : s.statusWord.getLsbD 1 = s.initialized := by
  rw [State.statusWord]
  iterate 2 rw [BitVec.getLsbD_append]
  simp

theorem State.statusWord_life : s.statusWord.extractLsb' 2 3 = Life.code s.life := by
  rw [State.statusWord]
  iterate 2 rw [BitVec.extractLsb'_append_eq_of_le (by decide)]
  exact BitVec.extractLsb'_append_eq_right

theorem State.statusWord_fault : s.statusWord.getLsbD 5 = s.fault := by
  rw [State.statusWord]
  iterate 4 rw [BitVec.getLsbD_append]
  simp

theorem State.statusWord_fCode : s.statusWord.extractLsb' 6 2 = FCode.code s.fCode := by
  rw [State.statusWord]
  iterate 3 rw [BitVec.extractLsb'_append_eq_of_le (by decide)]
  exact BitVec.extractLsb'_append_eq_left
end

/-- Settles O52: the five fields, each where R30 puts it. -/
theorem statusWordShowsItsFields : Obligations.StatusWordShowsItsFields := by
  unfold Obligations.StatusWordShowsItsFields
  intro s
  refine ⟨?_, s.statusWord_initialized, s.statusWord_life, s.statusWord_fault, s.statusWord_fCode, rfl, rfl, rfl, rfl, rfl,
    rfl, rfl⟩
  rw [s.statusWord_busy, State.busy]
  cases s.op <;> rfl

/-! ### A faulted block -/

theorem State.not_ready {s : State} (h : s.op ≠ .idle ∨ s.fault = true) : s.ready = false := by
  rcases h with h | h <;> simp [State.ready, h]

/-- Where the channel is not ready every request waits (42_sequencer.md R140). -/
theorem exec_requests_wait {s : State} (h : s.op ≠ .idle ∨ s.fault = true) :
    (∀ i ∈ ([.nop, .deinit] : List Instr), exec i s = .next s) ∧
    (∀ cfg, exec (.init cfg) s = .next s) ∧ (∀ len, exec (.display len) s = .next s) := by
  have hready := State.not_ready h
  refine ⟨fun i hi => ?_, fun cfg => ?_, fun len => ?_⟩
  · simp only [List.mem_cons, List.not_mem_nil, or_false] at hi
    rcases hi with rfl | rfl
    · exact State.accept_waits id hready
    · exact State.accept_waits (State.setPc .deinit 0 0) hready
  · rw [exec, execInit, State.accept_waits _ hready]
  · rw [exec, execDisplay, State.accept_waits _ hready]

/-- Settles O38: a block without a step, whose channel is not ready, and the status word of a fault. -/
theorem faultedBlockStaysUntilReset : Obligations.FaultedBlockStaysUntilReset := by
  unfold Obligations.FaultedBlockStaysUntilReset
  intro s h hf
  obtain ⟨hnop, hinit, hdisplay⟩ := exec_requests_wait (.inr hf)
  obtain ⟨hcode, hop, -⟩ : s.fCode = .fbOutOfBounds ∧ s.op = .display ∧ _ := by simpa [State.faultOk, hf] using h.faults
  have hbits : s.statusWord.extractLsb' 6 2 = 1 := by rw [s.statusWord_fCode, hcode]; rfl
  refine ⟨fun hr => step_faulted hr hf, hnop, hinit, hdisplay, ?_, ?_, ?_, ?_, fun hr => ⟨_, step_reset hr, rfl⟩⟩
  · rw [s.statusWord_busy, State.busy, hop]
    rfl
  · rw [s.statusWord_fault, hf]
  · simpa using congrArg (·.getLsbD 0) hbits
  · simpa using congrArg (·.getLsbD 1) hbits

/-! ### The contract on buffer lengths -/

/-- The DISPLAY that is accepted is one that waited (60_exceptions.md R181). -/
theorem State.Contract.accept {s t : State} {w : ReqWord} (h : s.Contract) (hr : s.ready = true)
    (hw : ReqWord.coversFrame s.par w) (ht : exec (decodeRequest w) s = .next t) : t.Contract := by
  rw [exec_request_ready hr ht]
  rcases reqEffect_cases w s with ⟨-, he⟩ | ⟨-, he⟩ | ⟨-, he⟩ | ⟨hop, he⟩ <;> rw [he]
  · exact h
  · exact ⟨nofun, h.waiting, h.noFault⟩
  · exact ⟨nofun, h.waiting, h.noFault⟩
  · exact ⟨fun _ => hw hop, h.waiting, h.noFault⟩

/-- Settles O45: a data slot of the frame is inside a buffer that covers the frame, so nothing raises. -/
theorem coveringBuffersNeverFault : Obligations.CoveringBuffersNeverFault := by
  unfold Obligations.CoveringBuffersNeverFault
  intro s t h
  refine ⟨fun hstep => ?_, fun a ha => ?_⟩
  · rcases step_cases hstep with ⟨-, rfl⟩ | ⟨-, rfl, -⟩ | ⟨-, hf, ho, w, rest, hh, hex⟩ |
      ⟨-, hf, ho, -, e, -, -, rfl⟩ | ⟨-, hf, -, -, e, -, -, rfl⟩ | ⟨-, -, hop, h3, hn, hrow, hout, -⟩
    · exact ⟨nofun, h.waiting, rfl⟩
    · exact h
    · have htake : s.takeRequest.Contract := ⟨h.running, fun v hv => h.waiting v (List.mem_of_mem_tail hv), hf⟩
      exact htake.accept (State.ready_iff.mpr ⟨ho, hf⟩) (h.waiting w (by simp [hh])) hex
    · refine ⟨fun hop => ?_, by simpa using h.waiting, by simpa using hf⟩
      rcases op_seqStep e ho with hs | hs <;> rw [hs] at hop
      · simpa using h.running hop
      · cases hop
    · exact ⟨by simpa using h.running, by simpa using h.waiting, by simpa using hf⟩
    · have hoff := dataOffset_lt_frameBytes hrow h3 hn
      have hcovers := h.running hop
      omega
  · cases a with
    | present w =>
      refine ⟨h.running, fun v hv => ?_, h.noFault⟩
      rcases List.mem_append.mp hv with hv | hv
      · exact h.waiting v hv
      · rw [List.mem_singleton.mp hv]
        exact ha w rfl
    | store off b => exact ⟨h.running, h.waiting, h.noFault⟩
    | assertReset => exact ⟨h.running, h.waiting, h.noFault⟩
    | setEnv e => exact ⟨h.running, h.waiting, h.noFault⟩

end Sys2Proof.Machine
end

section
/-! PROOF. What a step does not depend on. CFG, LENR, FINFO and the host's requests are read by the position and by
acceptance alone, LIFE and INITIALIZED by nothing: replacing them commutes with a step of SEQ (42_sequencer.md R140, R157;
70_reset_and_hazards.md R201). -/

namespace Sys2Proof.Machine

/-! ### The step of each kind of state, as a function of the state -/

theorem step_stays {s : State} (hr : s.rstIn = false) (h : s.fault = true ∨ s.op = .idle ∧ s.host = []) :
    step s = .next s := by
  cases hf : s.fault with
  | true => exact step_faulted hr hf
  | false =>
    obtain ⟨ho, hh⟩ := h.resolve_left (by simp [hf])
    exact step_idle hr hf ho hh

theorem eq_reqEffect {s t : State} {w : ReqWord} (hf : s.fault = false) (ho : s.op = .idle)
    (h : exec (decodeRequest w) s.takeRequest = .next t) : t = reqEffect w s.takeRequest :=
  exec_request_ready (s := s.takeRequest) (State.ready_iff.mpr ⟨ho, hf⟩) h

/-- An idle block takes the request on the channel and has its effect. -/
theorem step_request_effect {s : State} {w : ReqWord} {rest : List ReqWord} (hr : s.rstIn = false) (hf : s.fault = false)
    (ho : s.op = .idle) (hh : s.host = w :: rest) : step s = .next (reqEffect w s.takeRequest) := by
  rw [step_request hr hf ho hh, exec_decodeRequest]
  exact State.accept_ready _ (State.ready_iff.mpr ⟨ho, hf⟩)

/-- A data slot outside the buffer raises (60_exceptions.md R181). -/
theorem step_raises {s : State} (hr : s.rstIn = false) (hf : s.fault = false) (hop : s.op = .display)
    (h3 : 3 ≤ s.stepNo) (hn : s.stepNo ≤ s.par.wb + 2) (hrow : s.row.toNat < s.par.height)
    (hout : s.lenR ≤ s.dataOffset) : step s = .next (s.raise .fbOutOfBounds s.dataOffset) := by
  have hslot : s.atDataSlot = true := atDataSlot_iff.mpr ⟨hop, h3⟩
  have hbusy : s.op ≠ .idle := by simp [hop]
  rw [step_fetch hr hf, fetch_data_slot hop hrow h3 hn, afterFetch_busy hbusy]
  exact exec_data_raises _ (State.enabled_iff.mpr ⟨hbusy, hf⟩) hslot hout

/-! ### Replacing what a step of SEQ neither reads nor writes -/

/-- CFG, LENR, FINFO and the host's requests replaced. -/
def State.withUnread (cfg : Cfg) (len info : Nat) (host : List ReqWord) (s : State) : State :=
  { s with cfg := cfg, lenR := len, fInfo := info, host := host }

section
variable (cfg : Cfg) (len info : Nat) (host : List ReqWord) (s : State)

theorem State.withUnread_advance :
    (s.withUnread cfg len info host).advance = s.advance.withUnread cfg len info host := by
  cases ho : s.op with
  | idle =>
    have hidle : ∀ v : State, v.op = .idle → v.advance = v := fun v hv => by simp [State.advance, hv]
    rw [hidle s ho, hidle (s.withUnread cfg len info host) ho]
  | init =>
    by_cases hn : s.stepNo + 1 < s.par.initLen
    · rw [State.advance_init_mid ho hn, State.advance_init_mid (s := s.withUnread cfg len info host) ho hn]
      rfl
    · rw [State.advance_init_last ho hn, State.advance_init_last (s := s.withUnread cfg len info host) ho hn]
      rfl
  | deinit =>
    by_cases hn : s.stepNo + 1 < Params.deinitLen
    · rw [State.advance_deinit_mid ho hn, State.advance_deinit_mid (s := s.withUnread cfg len info host) ho hn]
      rfl
    · rw [State.advance_deinit_last ho hn, State.advance_deinit_last (s := s.withUnread cfg len info host) ho hn]
      rfl
  | display =>
    by_cases hn : s.stepNo < s.par.wb + 2
    · rw [State.advance_display_slot ho hn, State.advance_display_slot (s := s.withUnread cfg len info host) ho hn]
      rfl
    by_cases hrow : s.row.toNat + 1 < s.par.height
    · rw [State.advance_display_row ho hn hrow, State.advance_display_row (s := s.withUnread cfg len info host) ho hn hrow]
      rfl
    · rw [State.advance_display_last ho hn hrow,
        State.advance_display_last (s := s.withUnread cfg len info host) ho hn hrow]
      rfl

theorem State.withUnread_seqStep (e : Event) :
    (s.withUnread cfg len info host).seqStep e = (s.seqStep e).withUnread cfg len info host := by
  have hperform : ((s.withUnread cfg len info host).perform e).setHanded none =
      ((s.perform e).setHanded none).withUnread cfg len info host := by cases e <;> rfl
  rw [State.seqStep, hperform, State.withUnread_advance]
  rfl

theorem State.withUnread_await (e : Event) :
    (s.withUnread cfg len info host).await e = (s.await e).withUnread cfg len info host := by
  rcases e with _ | _ | ⟨_ | _, b⟩
  · rfl
  · rfl
  · rfl
  · cases hb : s.byteAtHand with
    | false =>
      rw [State.await_data_unread b hb, State.await_data_unread (s := s.withUnread cfg len info host) b hb]
    | true =>
      rw [State.await_data_read b hb, State.await_data_read (s := s.withUnread cfg len info host) b hb]
      rfl

/-- INIT reads CFG, no other operation does. -/
theorem State.withUnread_nextEvent (ho : s.op ≠ .idle) (hc : s.op = .init → cfg = s.cfg) :
    (s.withUnread cfg len info host).nextEvent = s.nextEvent := by
  cases hop : s.op with
  | idle => exact absurd hop ho
  | init =>
    rw [nextEvent_init hop, nextEvent_init (s := s.withUnread cfg len info host) hop, ← hc hop]
    rfl
  | deinit =>
    rw [nextEvent_deinit hop, nextEvent_deinit (s := s.withUnread cfg len info host) hop]
    rfl
  | display =>
    have hop' : (s.withUnread cfg len info host).op = .display := hop
    simp only [State.nextEvent, State.fetch, hop, hop']
    rfl
end

/-! ### A request presented meanwhile -/

theorem State.present_eq_withUnread (w : ReqWord) (s : State) :
    s.present w = s.withUnread s.cfg s.lenR s.fInfo (s.host ++ [w]) := rfl

theorem State.present_seqStep (w : ReqWord) (s : State) (e : Event) :
    (s.present w).seqStep e = (s.seqStep e).present w := by
  simp [State.present_eq_withUnread, State.withUnread_seqStep]

theorem State.present_await (w : ReqWord) (s : State) (e : Event) : (s.present w).await e = (s.await e).present w := by
  simp [State.present_eq_withUnread, State.withUnread_await]

theorem State.present_reqEffect (w v : ReqWord) (s : State) :
    reqEffect v (s.present w) = (reqEffect v s).present w := by
  obtain ⟨op, cfg, len⟩ := v
  rcases reqOp_cases op with rfl | rfl | rfl | rfl <;> rfl

theorem State.present_takeRequest (w : ReqWord) {s : State} (h : s.host ≠ []) :
    (s.present w).takeRequest = s.takeRequest.present w := by
  simp [State.takeRequest, State.present, List.tail_append_of_ne_nil h]

theorem State.present_nextEvent (w : ReqWord) {s : State} (ho : s.op ≠ .idle) : (s.present w).nextEvent = s.nextEvent :=
  State.withUnread_nextEvent _ _ _ _ s ho fun _ => rfl

/-- Settles O25: each way a step can go, with one more request at the end of the host's list. -/
theorem presentingARequestDisturbsNothing : Obligations.PresentingARequestDisturbsNothing := by
  unfold Obligations.PresentingARequestDisturbsNothing
  intro s t w hbusy hstep
  rcases step_cases hstep with ⟨hr, rfl⟩ | ⟨hr, rfl, hstay⟩ | ⟨hr, hf, ho, v, rest, hh, hex⟩ |
    ⟨hr, hf, ho, hin, e, he, ha, rfl⟩ | ⟨hr, hf, ho, hin, e, he, ha, rfl⟩ | ⟨hr, hf, hop, h3, hn, hrow, hout, rfl⟩
  · exact step_reset (s := s.present w) hr
  · have hf : t.fault = true := by grind
    exact step_faulted (s := t.present w) hr hf
  · rw [step_request_effect (s := s.present w) (w := v) (rest := rest ++ [w]) hr hf ho (by simp [hh]),
      State.present_takeRequest w (by simp [hh]), State.present_reqEffect, ← eq_reqEffect hf ho hex]
  · rw [← State.present_seqStep]
    exact step_performs (s := s.present w) hr hf hin ((State.present_nextEvent w ho).trans he) ha
  · rw [← State.present_await]
    exact step_waits (s := s.present w) hr hf hin ((State.present_nextEvent w ho).trans he) ha
  · exact step_raises (s := s.present w) hr hf hop h3 hn hrow hout

/-! ### Runs of two related states -/

theorem afterSteps_succ {k : Nat} {s t : State} :
    State.afterSteps (k + 1) s = some t ↔ ∃ u, step s = .next u ∧ State.afterSteps k u = some t := by
  rw [State.afterSteps]
  split <;> simp [*]

/-- A relation that every step keeps is kept by any number of steps. -/
theorem afterSteps_of_step {R : State → State → Prop}
    (hR : ∀ s s' t, R s s' → step s = .next t → ∃ t', step s' = .next t' ∧ R t t') {k : Nat} {s s' t : State}
    (h : R s s') (ht : State.afterSteps k s = some t) : ∃ t', State.afterSteps k s' = some t' ∧ R t t' := by
  induction k generalizing s s' with
  | zero =>
    cases ht
    exact ⟨s', rfl, h⟩
  | succ k ih =>
    obtain ⟨u, hu, hk⟩ := afterSteps_succ.mp ht
    obtain ⟨u', hu', hrel⟩ := hR s s' u h hu
    obtain ⟨t', hk', hrel'⟩ := ih hrel hk
    exact ⟨t', afterSteps_succ.mpr ⟨u', hu', hk'⟩, hrel'⟩

/-! ### LIFE and INITIALIZED -/

/-- LIFE and INITIALIZED replaced. -/
def State.withLife (l : Life) (b : Bool) (s : State) : State := { s with life := l, initialized := b }

/-- The states differ at most in LIFE and INITIALIZED. -/
def State.SameButLife (s s' : State) : Prop := ∃ l b, s' = s.withLife l b

theorem State.SameButLife.advance {s s' : State} (h : s.SameButLife s') : s.advance.SameButLife s'.advance := by
  obtain ⟨l, b, rfl⟩ := h
  cases ho : s.op with
  | idle =>
    have hidle : ∀ v : State, v.op = .idle → v.advance = v := fun v hv => by simp [State.advance, hv]
    rw [hidle s ho, hidle (s.withLife l b) ho]
    exact ⟨_, _, rfl⟩
  | init =>
    by_cases hn : s.stepNo + 1 < s.par.initLen
    · rw [State.advance_init_mid ho hn, State.advance_init_mid (s := s.withLife l b) ho hn]
      exact ⟨_, _, rfl⟩
    · rw [State.advance_init_last ho hn, State.advance_init_last (s := s.withLife l b) ho hn]
      exact ⟨_, _, rfl⟩
  | deinit =>
    by_cases hn : s.stepNo + 1 < Params.deinitLen
    · rw [State.advance_deinit_mid ho hn, State.advance_deinit_mid (s := s.withLife l b) ho hn]
      exact ⟨_, _, rfl⟩
    · rw [State.advance_deinit_last ho hn, State.advance_deinit_last (s := s.withLife l b) ho hn]
      exact ⟨_, _, rfl⟩
  | display =>
    by_cases hn : s.stepNo < s.par.wb + 2
    · rw [State.advance_display_slot ho hn, State.advance_display_slot (s := s.withLife l b) ho hn]
      exact ⟨_, _, rfl⟩
    by_cases hrow : s.row.toNat + 1 < s.par.height
    · rw [State.advance_display_row ho hn hrow, State.advance_display_row (s := s.withLife l b) ho hn hrow]
      exact ⟨_, _, rfl⟩
    · rw [State.advance_display_last ho hn hrow, State.advance_display_last (s := s.withLife l b) ho hn hrow]
      exact ⟨_, _, rfl⟩

theorem State.SameButLife.seqStep {s s' : State} (h : s.SameButLife s') (e : Event) :
    (s.seqStep e).SameButLife (s'.seqStep e) := by
  obtain ⟨l, b, rfl⟩ := h
  refine State.SameButLife.advance ⟨l, b, ?_⟩
  cases e <;> rfl

theorem State.SameButLife.await {s s' : State} (h : s.SameButLife s') (e : Event) :
    (s.await e).SameButLife (s'.await e) := by
  obtain ⟨l, b, rfl⟩ := h
  rcases e with _ | _ | ⟨_ | _, d⟩
  · exact ⟨_, _, rfl⟩
  · exact ⟨_, _, rfl⟩
  · exact ⟨_, _, rfl⟩
  · cases hd : s.byteAtHand with
    | false =>
      rw [State.await_data_unread d hd, State.await_data_unread (s := s.withLife l b) d hd]
      exact ⟨_, _, rfl⟩
    | true =>
      rw [State.await_data_read d hd, State.await_data_read (s := s.withLife l b) d hd]
      exact ⟨_, _, rfl⟩

theorem State.SameButLife.reqEffect {s s' : State} (h : s.SameButLife s') (w : ReqWord) :
    (reqEffect w s).SameButLife (Machine.reqEffect w s') := by
  obtain ⟨l, b, rfl⟩ := h
  obtain ⟨op, cfg, len⟩ := w
  rcases reqOp_cases op with rfl | rfl | rfl | rfl <;> exact ⟨_, _, rfl⟩

theorem State.SameButLife.step {s s' t : State} (h : s.SameButLife s') (hstep : step s = .next t) :
    ∃ t', Machine.step s' = .next t' ∧ t.SameButLife t' := by
  have hrel := h
  obtain ⟨l, b, rfl⟩ := h
  rcases step_cases hstep with ⟨hr, rfl⟩ | ⟨hr, rfl, hstay⟩ | ⟨hr, hf, ho, v, rest, hh, hex⟩ |
    ⟨hr, hf, ho, hin, e, he, ha, rfl⟩ | ⟨hr, hf, ho, hin, e, he, ha, rfl⟩ | ⟨hr, hf, hop, h3, hn, hrow, hout, rfl⟩
  · exact ⟨_, step_reset (s := s.withLife l b) hr, _, _, rfl⟩
  · exact ⟨_, step_stays (s := t.withLife l b) hr hstay, hrel⟩
  · refine ⟨_, step_request_effect (s := s.withLife l b) hr hf ho hh, ?_⟩
    rw [eq_reqEffect hf ho hex]
    exact State.SameButLife.reqEffect ⟨l, b, rfl⟩ v
  · exact ⟨_, step_performs (s := s.withLife l b) hr hf hin he ha, hrel.seqStep e⟩
  · exact ⟨_, step_waits (s := s.withLife l b) hr hf hin he ha, hrel.await e⟩
  · exact ⟨_, step_raises (s := s.withLife l b) hr hf hop h3 hn hrow hout, _, _, rfl⟩

/-- Settles O53: no step reads LIFE or INITIALIZED. -/
theorem lifecycleGuardsNothing : Obligations.LifecycleGuardsNothing := by
  unfold Obligations.LifecycleGuardsNothing
  intro k s t l b ht
  obtain ⟨-, hk, l', b', rfl⟩ :=
    afterSteps_of_step (fun _ _ _ => State.SameButLife.step) (s' := s.withLife l b) ⟨l, b, rfl⟩ ht
  exact ⟨l', b', hk⟩

/-! ### CFG, LENR and FINFO -/

/-- The states differ at most in CFG, LENR and FINFO, and not in CFG during INIT nor in LENR during DISPLAY. -/
def State.SameSeen (s s' : State) : Prop :=
  ∃ cfg len info, s' = s.withUnread cfg len info s.host ∧ (s.op = .init → cfg = s.cfg) ∧ (s.op = .display → len = s.lenR)

/-- An accepted INIT loads CFG and an accepted DISPLAY loads LENR, whatever they held. -/
theorem State.SameSeen.reqEffect {s s' : State} (h : s.SameSeen s') (ho : s.op = .idle) (w : ReqWord) :
    (reqEffect w s).SameSeen (Machine.reqEffect w s') := by
  obtain ⟨cfg, len, info, rfl, -, -⟩ := h
  obtain ⟨op, rc, rl⟩ := w
  rcases reqOp_cases op with rfl | rfl | rfl | rfl
  · exact ⟨cfg, len, info, rfl, fun hi => absurd (ho.symm.trans hi) nofun, fun hd => absurd (ho.symm.trans hd) nofun⟩
  · exact ⟨unpackCfg rc, len, info, rfl, fun _ => rfl, nofun⟩
  · exact ⟨cfg, len, info, rfl, nofun, nofun⟩
  · exact ⟨cfg, rl, info, rfl, nofun, fun _ => rfl⟩

theorem State.SameSeen.seqStep {s s' : State} (h : s.SameSeen s') (ho : s.op ≠ .idle) (e : Event) :
    (s.seqStep e).SameSeen (s'.seqStep e) := by
  obtain ⟨cfg, len, info, rfl, hc, hl⟩ := h
  refine ⟨cfg, len, info, ?_, fun hi => ?_, fun hd => ?_⟩
  · rw [State.withUnread_seqStep, State.seqStep_host]
  · rcases op_seqStep e ho with hop | hop <;> rw [hop] at hi
    · rw [State.seqStep_cfg, hc hi]
    · cases hi
  · rcases op_seqStep e ho with hop | hop <;> rw [hop] at hd
    · rw [State.seqStep_lenR, hl hd]
    · cases hd

theorem State.SameSeen.step {s s' t : State} (h : s.SameSeen s') (hstep : step s = .next t) :
    ∃ t', Machine.step s' = .next t' ∧ t.SameSeen t' := by
  have hrel := h
  obtain ⟨cfg, len, info, rfl, hc, hl⟩ := h
  have hlen : s.atDataSlot = true → len = s.lenR := fun hd => hl (atDataSlot_iff.mp hd).1
  rcases step_cases hstep with ⟨hr, rfl⟩ | ⟨hr, rfl, hstay⟩ | ⟨hr, hf, ho, v, rest, hh, hex⟩ |
    ⟨hr, hf, ho, hin, e, he, ha, rfl⟩ | ⟨hr, hf, ho, hin, e, he, ha, rfl⟩ | ⟨hr, hf, hop, h3, hn, hrow, hout, rfl⟩
  · exact ⟨_, step_reset (s := s.withUnread cfg len info s.host) hr, _, _, _, rfl, nofun, nofun⟩
  · exact ⟨_, step_stays (s := t.withUnread cfg len info t.host) hr hstay, hrel⟩
  · refine ⟨_, step_request_effect (s := s.withUnread cfg len info s.host) hr hf ho hh, ?_⟩
    rw [eq_reqEffect hf ho hex]
    exact State.SameSeen.reqEffect (s := s.takeRequest) ⟨cfg, len, info, rfl, hc, hl⟩ ho v
  · refine ⟨_, step_performs (s := s.withUnread cfg len info s.host) hr hf ?_ ?_ ha, hrel.seqStep ho e⟩
    · exact fun hd => (hin hd).trans_eq (hlen hd).symm
    · rw [State.withUnread_nextEvent _ _ _ _ _ ho hc, he]
  · refine ⟨_, step_waits (s := s.withUnread cfg len info s.host) hr hf ?_ ?_ ha, cfg, len, info, ?_, ?_, ?_⟩
    · exact fun hd => (hin hd).trans_eq (hlen hd).symm
    · rw [State.withUnread_nextEvent _ _ _ _ _ ho hc, he]
    · rw [State.withUnread_await, State.await_host]
    · simpa using hc
    · simpa using hl
  · have hout' : len ≤ s.dataOffset := (hl hop).trans_le hout
    exact ⟨_, step_raises (s := s.withUnread cfg len info s.host) hr hf hop h3 hn hrow hout',
      cfg, len, s.dataOffset, rfl, hc, hl⟩

/-- Settles O54: an idle block is in neither INIT nor DISPLAY, so the three registers may hold anything. -/
theorem unspecifiedValuesAreNeverSeen : Obligations.UnspecifiedValuesAreNeverSeen := by
  unfold Obligations.UnspecifiedValuesAreNeverSeen
  intro k s t cfg len info ho _ ht
  have hrel : s.SameSeen (s.withUnread cfg len info s.host) := ⟨cfg, len, info, rfl, by simp [ho], by simp [ho]⟩
  obtain ⟨t', hk, cfg', len', info', rfl, -, -⟩ := afterSteps_of_step (fun _ _ _ => State.SameSeen.step) hrel ht
  exact ⟨_, hk, rfl, rfl, rfl, rfl, rfl, rfl, rfl⟩

end Sys2Proof.Machine
end

section
/-! PROOF. The commands and the data byte (40_cmdenc.md R100 to R117; 42_sequencer.md R154): what they send, their frames,
and that a step runs the instruction whose words stand at the position (42_sequencer.md R140, R144). -/

namespace Sys2Proof.Machine

/-! ### What a command sends -/

theorem State.not_enabled {s : State} (h : s.op = .idle ∨ s.fault = true) : s.enabled = false := by
  rcases h with h | h <;> simp [State.enabled, h]

/-- R102, R144: where SEQ has a step and the transport takes the byte, a command sends the byte that is due. -/
theorem exec_command_sends {i : Instr} {c : Cmd} {p : Byte} {s : State} (hi : i.command? = some (c, p))
    (ho : s.op ≠ .idle) (hf : s.fault = false) (ht : s.env.transport = true) :
    exec i s = .next (s.seqStep (.tx .command (s.commandByte c p))) := by
  rw [exec_command hi]
  exact State.emit_enabled _ (State.enabled_iff.mpr ⟨ho, hf⟩) ht

/-- Settles O15: the byte that is due, by KIND and position. -/
theorem commandSendsTheByteThatIsDue : Obligations.CommandSendsTheByteThatIsDue := by
  unfold Obligations.CommandSendsTheByteThatIsDue
  intro i c p s hi ho hf ht
  refine ⟨_, exec_command_sends hi ho hf ht, ?_, fun hk => ?_, fun hk hv => ?_, fun hk hv => ?_⟩
  · rw [State.seqStep_dc, State.perform_tx_dc]
  · rw [State.seqStep_trace, State.commandByte_one hk, enc1]
  · rw [State.seqStep_trace, State.commandByte_address hk hv]
  · rw [State.seqStep_trace, State.commandByte_value hk hv]

theorem exec_one_byte_sends {i : Instr} {c : Cmd} {p : Byte} {s : State} (htable : s.par.table = Table.default)
    (hi : i.command? = some (c, p)) (hk : (Table.default.entry c).kind = .one)
    (ho : s.op ≠ .idle) (hf : s.fault = false) (ht : s.env.transport = true) :
    ∃ t, exec i s = .next t ∧ t.trace = s.trace ++ [.tx .command (enc1 Table.default c p)] ∧ t.dc = .command := by
  refine ⟨_, exec_command_sends hi ho hf ht, ?_, ?_⟩
  · rw [← htable] at hk
    rw [State.seqStep_trace, State.commandByte_one hk, htable]
  · rw [State.seqStep_dc, State.perform_tx_dc]

/-- Settles O16: Enc1 with the six rows of KIND ONE of the default table. -/
theorem oneByteCommandsSendTheirByte : Obligations.OneByteCommandsSendTheirByte := by
  unfold Obligations.OneByteCommandsSendTheirByte
  intro s htable ho hf ht p ib hib
  simp only [List.mem_cons, List.not_mem_nil, or_false] at hib
  rcases hib with rfl | rfl | rfl | rfl | rfl | rfl
  · exact exec_one_byte_sends (c := .setLowCol) htable rfl rfl ho hf ht
  · exact exec_one_byte_sends (c := .setHighCol) htable rfl rfl ho hf ht
  · exact exec_one_byte_sends (c := .setPage) htable rfl rfl ho hf ht
  · exact exec_one_byte_sends (c := .setPolarity) htable rfl rfl ho hf ht
  · exact exec_one_byte_sends (i := .dispOff) (c := .dispOff) (p := 0) htable rfl rfl ho hf ht
  · exact exec_one_byte_sends (i := .dispOn) (c := .dispOn) (p := 0) htable rfl rfl ho hf ht

/-! ### The two steps of a two-byte command -/

/-- INIT with the default table, step by step from 4 on (42_sequencer.md R147). -/
def defaultSlots : List Slot :=
  [.cmd .dispOff false, .cmd .setLowCol false, .cmd .setHighCol false, .cmd .setPage false,
   .cmd .setStartLine false, .cmd .setStartLine true, .cmd .setContrast false, .cmd .setContrast true,
   .cmd .setPolarity false, .cmd .setMux false, .cmd .setMux true, .cmd .setOffset false, .cmd .setOffset true,
   .cmd .setClock false, .cmd .setClock true, .cmd .setCharge false, .cmd .setCharge true,
   .cmd .setVcom false, .cmd .setVcom true, .cmd .setDcdc false, .cmd .setDcdc true, .cmd .dispOn false]

theorem initPlan_default {p : Params} (hp : p.table = Table.default) :
    initPlan p = (resetPulse p).map .pulse ++ defaultSlots := by
  rw [initPlan, hp]
  rfl

theorem initLen_default {p : Params} (hp : p.table = Table.default) : p.initLen = 26 := by
  rw [← initPlan_length, initPlan_default hp]
  rfl

theorem atValueByte_of_init {s : State} {c : Cmd} {v : Bool} (ho : s.op = .init)
    (hslot : (initPlan s.par)[s.stepNo]? = some (.cmd c v)) : s.atValueByte = v := by
  simp [State.atValueByte, State.slot?, ho, hslot]

/-- R107: at its two steps in INIT a two-byte command of the default table sends its tag and its parameter. -/
theorem exec_two_byte_sends {i : Instr} {c : Cmd} {p : Byte} {s : State} (htable : s.par.table = Table.default)
    (hi : i.command? = some (c, p)) (hk : (Table.default.entry c).kind = .two) (ho : s.op = .init)
    (hf : s.fault = false) (ht : s.env.transport = true)
    (hslot : (initPlan s.par)[s.stepNo]? = some (.cmd c false))
    (hslot' : (initPlan s.par)[s.stepNo + 1]? = some (.cmd c true)) (hn : s.stepNo + 2 < 26) :
    ∃ t u, exec i s = .next t ∧ exec i t = .next u ∧
      t.trace = s.trace ++ [.tx .command (Table.default.entry c).tag] ∧ t.stepNo = s.stepNo + 1 ∧ t.dc = .command ∧
      u.trace = s.trace ++ [.tx .command (Table.default.entry c).tag, .tx .command p] ∧ u.stepNo = s.stepNo + 2 ∧
      u.dc = .command := by
  have hlen := initLen_default htable
  have hmask := Table.mask_default_of_two hk
  rw [← htable] at hk hmask
  have hbyte : s.commandByte c p = (Table.default.entry c).tag := by
    rw [State.commandByte_address hk (atValueByte_of_init ho hslot), htable]
  have hexec := exec_command_sends (s := s) hi (by simp [ho]) hf ht
  obtain ⟨htop, -, htn, -⟩ := State.seqStep_init_mid (.tx .command (s.commandByte c p)) ho (by omega)
  generalize htdef : s.seqStep (.tx .command (s.commandByte c p)) = t at hexec htop htn
  have htpar : t.par = s.par := by simp [← htdef]
  have htrace : t.trace = s.trace ++ [.tx .command (Table.default.entry c).tag] := by simp [← htdef, hbyte]
  have hbyte' : t.commandByte c p = p := by
    rw [State.commandByte_value (by rw [htpar, hk]) (atValueByte_of_init htop (by rw [htpar, htn, hslot'])), htpar, hmask]
    exact and_ones p
  obtain ⟨-, -, hun, -⟩ := State.seqStep_init_mid (.tx .command (t.commandByte c p)) htop (by rw [htpar]; omega)
  refine ⟨t, _, hexec, exec_command_sends hi (by simp [htop]) (by simp [← htdef, hf]) (by simp [← htdef, ht]), htrace, htn,
    by simp [← htdef], ?_, by rw [hun, htn], by simp⟩
  rw [State.seqStep_trace, hbyte', htrace, List.append_assoc, List.singleton_append]

/-- Settles O17: the eight rows of KIND TWO, at the steps where INIT sends them. -/
theorem twoByteCommandsSendAddressThenValue : Obligations.TwoByteCommandsSendAddressThenValue := by
  unfold Obligations.TwoByteCommandsSendAddressThenValue
  intro s htable ho hf ht p ibn hibn hn
  have hplan := initPlan_default htable
  simp only [List.mem_cons, List.not_mem_nil, or_false] at hibn
  rcases hibn with rfl | rfl | rfl | rfl | rfl | rfl | rfl | rfl
  · exact exec_two_byte_sends (i := .setStartLine p) (c := .setStartLine) htable rfl rfl ho hf ht (by rw [hplan, hn]; rfl)
      (by rw [hplan, hn]; rfl) (by simp [hn])
  · exact exec_two_byte_sends (i := .setContrast p) (c := .setContrast) htable rfl rfl ho hf ht (by rw [hplan, hn]; rfl)
      (by rw [hplan, hn]; rfl) (by simp [hn])
  · exact exec_two_byte_sends (i := .setMux p) (c := .setMux) htable rfl rfl ho hf ht (by rw [hplan, hn]; rfl)
      (by rw [hplan, hn]; rfl) (by simp [hn])
  · exact exec_two_byte_sends (i := .setOffset p) (c := .setOffset) htable rfl rfl ho hf ht (by rw [hplan, hn]; rfl)
      (by rw [hplan, hn]; rfl) (by simp [hn])
  · exact exec_two_byte_sends (i := .setClock p) (c := .setClock) htable rfl rfl ho hf ht (by rw [hplan, hn]; rfl)
      (by rw [hplan, hn]; rfl) (by simp [hn])
  · exact exec_two_byte_sends (i := .setCharge p) (c := .setCharge) htable rfl rfl ho hf ht (by rw [hplan, hn]; rfl)
      (by rw [hplan, hn]; rfl) (by simp [hn])
  · exact exec_two_byte_sends (i := .setVcom p) (c := .setVcom) htable rfl rfl ho hf ht (by rw [hplan, hn]; rfl)
      (by rw [hplan, hn]; rfl) (by simp [hn])
  · exact exec_two_byte_sends (i := .setDcdc p) (c := .setDcdc) htable rfl rfl ho hf ht (by rw [hplan, hn]; rfl)
      (by rw [hplan, hn]; rfl) (by simp [hn])

/-! ### Frames -/

/-- LIFE and INITIALIZED change only with the steps that end INIT and DEINIT, and LIFE with step 3 of INIT. -/
theorem seqStep_life_initialized {s : State} (e : Event) (ho : s.op ≠ .idle)
    (h : s.op = .idle ∨ s.op = .display ∨ (s.op = .init ∧ s.stepNo + 1 < s.par.initLen) ∨
      (s.op = .deinit ∧ s.stepNo + 1 < Params.deinitLen)) :
    (s.seqStep e).initialized = s.initialized ∧
      (¬(s.op = .init ∧ s.stepNo = 3) → (s.seqStep e).life = s.life) := by
  rcases State.seqStep_cases e ho with ⟨hop, -, -, -, -, hlife, hinit⟩ | ⟨hop, hn, -⟩ | ⟨-, -, -, -, -, hlife, hinit⟩ |
    ⟨hop, hn, -⟩ | ⟨-, -, -, -, -, hlife, hinit⟩ | ⟨-, -, -, -, -, -, hlife, hinit⟩ | ⟨-, -, -, -, -, -, hlife, hinit⟩
  · refine ⟨hinit, fun h3 => ?_⟩
    rw [hlife, if_neg fun hn => h3 ⟨hop, hn⟩]
  · simp [hop, hn] at h
  · exact ⟨hinit, fun _ => hlife⟩
  · simp [hop, hn] at h
  · exact ⟨hinit, fun _ => hlife⟩
  · exact ⟨hinit, fun _ => hlife⟩
  · exact ⟨hinit, fun _ => hlife⟩

/-- Settles O18: a command performs one `tx` event, waits in it, or does nothing. -/
theorem commandsLeaveTheRestUnchanged : Obligations.CommandsLeaveTheRestUnchanged := by
  unfold Obligations.CommandsLeaveTheRestUnchanged
  intro i c p s t hi h
  rw [exec_command hi] at h
  rcases State.emit_cases h with ⟨hen, -, rfl⟩ | ⟨-, -, rfl⟩ | ⟨-, rfl⟩
  · obtain ⟨ho, -⟩ := State.enabled_iff.mp hen
    simp only [State.seqStep_cfg, State.seqStep_lenR, State.seqStep_res, State.perform_tx_res, State.seqStep_fault,
      State.seqStep_fCode, State.seqStep_fInfo, State.seqStep_host, State.seqStep_rstIn, State.seqStep_env,
      State.seqStep_par, State.seqStep_freeIx, State.seqStep_handed, State.seqStep_fb, or_true, implies_true, true_and]
    exact seqStep_life_initialized _ ho
  · simp [State.await_command]
  · simp

/-! ### The data byte -/

/-- Away from a data slot outside the buffer, DATA is `emit` of its byte. -/
theorem exec_data_emits {s : State} (d : Byte) (h : s.enabled = true → s.atDataSlot = true → s.dataOffset < s.lenR) :
    exec (.data d) s = s.emit (.tx .data d) := by
  refine if_neg fun hc => ?_
  simp only [Bool.and_eq_true, decide_eq_true_eq] at hc
  obtain ⟨⟨hen, hslot⟩, hout⟩ := hc
  exact absurd (h hen hslot) (Nat.not_lt.mpr hout)

/-- Everything DATA can do. -/
theorem exec_data_cases {s t : State} {d : Byte} (h : exec (.data d) s = .next t) :
    (s.enabled = true ∧ s.atDataSlot = true ∧ t = s.raise .fbOutOfBounds s.dataOffset) ∨ s.emit (.tx .data d) = .next t := by
  by_cases hout : s.enabled = true ∧ s.atDataSlot = true ∧ s.lenR ≤ s.dataOffset
  · obtain ⟨hen, hslot, hout⟩ := hout
    rw [exec_data_raises d hen hslot hout] at h
    cases h
    exact .inl ⟨hen, hslot, rfl⟩
  · rw [exec_data_emits d fun hen hslot => Nat.lt_of_not_le fun hle => hout ⟨hen, hslot, hle⟩] at h
    exact .inr h

theorem answered_data {s : State} (b : Byte) (hread : s.env.fbPort = true ∨ s.handed ≠ none)
    (ht : s.env.transport = true) : s.answered (.tx .data b) = true := by
  have hbyte : s.byteAtHand = true := by
    rcases hread with h | h
    · simp [State.byteAtHand, h]
    · simp [State.byteAtHand, Option.isSome_iff_ne_none, h]
  simp [State.answered, hbyte, ht]

/-- Settles O19: at a data slot inside the buffer DATA does not raise, and its byte is there and taken. -/
theorem dataByteIsSentInDataMode : Obligations.DataByteIsSentInDataMode := by
  unfold Obligations.DataByteIsSentInDataMode
  intro d s hop hf _ hin hread ht
  refine ⟨s.seqStep (.tx .data d), ?_, by simp, by simp⟩
  rw [exec_data_emits d fun _ _ => hin]
  exact State.emit_enabled _ (State.enabled_iff.mpr ⟨by simp [hop], hf⟩) (answered_data d hread ht)

/-- Settles O21: DATA raises, sends, waits or does nothing. -/
theorem dataByteLeavesTheRestUnchanged : Obligations.DataByteLeavesTheRestUnchanged := by
  unfold Obligations.DataByteLeavesTheRestUnchanged
  intro d s t h
  rcases exec_data_cases h with ⟨hen, -, rfl⟩ | h
  · obtain ⟨-, hf⟩ := State.enabled_iff.mp hen
    simp [hf]
  rcases State.emit_cases h with ⟨hen, -, rfl⟩ | ⟨-, -, rfl⟩ | ⟨-, rfl⟩
  · obtain ⟨ho, -⟩ := State.enabled_iff.mp hen
    have hlife : s.op = .idle ∨ s.op = .display → (s.seqStep (.tx .data d)).life = s.life ∧
        (s.seqStep (.tx .data d)).initialized = s.initialized := fun hop => by
      obtain ⟨hinit, hlife⟩ := seqStep_life_initialized (.tx .data d) ho (hop.imp_right .inl)
      exact ⟨hlife fun hi => by simp [hi.1] at hop, hinit⟩
    simpa using hlife
  · cases hb : s.byteAtHand with
    | false => simp [State.await_data_unread d hb]
    | true => simp [State.await_data_read d hb]
  · simp

/-- Settles O22: where SEQ has no step, `emit` does nothing. -/
theorem nothingIsSentWithoutAStep : Obligations.NothingIsSentWithoutAStep := by
  unfold Obligations.NothingIsSentWithoutAStep
  intro s h
  have hen := State.not_enabled h
  refine ⟨fun i c p hi => ?_, fun d => ?_⟩
  · rw [exec_command hi]
    exact State.emit_disabled _ hen
  · rw [exec_data_emits d (by simp [hen])]
    exact State.emit_disabled _ hen

end Sys2Proof.Machine
end

section
/-! PROOF. A step runs the instruction whose words stand at the position (42_sequencer.md R140, R144), and the one that has
been placed there (log 12, log 13). -/

namespace Sys2Proof.Machine

/-! ### The instruction at the position -/

theorem commandByte_mask (s : State) (c : Cmd) (p : Byte) :
    s.commandByte c (p &&& (s.par.table.entry c).mask) = s.commandByte c p := by
  simp only [State.commandByte, enc1_mask, enc2_mask]

/-- The encoder drops the bits outside the mask (40_cmdenc.md R103 e), so a command runs as its masked form. -/
theorem exec_toInstr_mask (c : Cmd) (p : Byte) (s : State) :
    exec (c.toInstr (p &&& (s.par.table.entry c).mask)) s = exec (c.toInstr p) s := by
  rw [exec_command (command_toInstr c _), exec_command (command_toInstr c p)]
  split
  · rfl
  · rw [State.sendCommand, State.sendCommand, commandByte_mask]

/-- What the bytes of a command decode to runs as the command. -/
theorem exec_of_decode_encBytes {s : State} (ht : s.par.table.wf = true) {c : Cmd} {p : Byte} {i : Instr}
    (hi : decode s.par.table (.command (encBytes s.par.table c p)) = .ok i) : exec i s = exec (c.toInstr p) s := by
  rw [decode_encBytes ht] at hi
  cases hi
  exact exec_toInstr_mask c p s

section
variable {s : State} (hr : s.rstIn = false) (hf : s.fault = false)
include hr hf

theorem step_slot {c : Cmd} {v : Bool} (ho : s.op = .init ∨ s.op = .deinit) (hs : s.slot? = some (.cmd c v)) :
    step s = exec (c.toInstr (s.cfg.param c)) s := by
  have hbusy : s.op ≠ .idle := by rcases ho with ho | ho <;> simp [ho]
  have hfetch : s.fetch = .instr (c.toInstr (s.cfg.param c)) := by
    rw [fetch_of_slot ho, State.fetchSlot, hs]
  rw [step_fetch hr hf, hfetch, afterFetch_busy hbusy]

theorem step_slot_pulse {e : Event} (ho : s.op = .init ∨ s.op = .deinit) (hs : s.slot? = some (.pulse e)) :
    step s = s.emit e := by
  have hfetch : s.fetch = .pulse e := by rw [fetch_of_slot ho, State.fetchSlot, hs]
  rw [step_fetch hr hf, hfetch]

theorem step_address (ho : s.op = .display) (hrow : s.row.toNat < s.par.height) :
    (s.stepNo = 0 → step s = exec (.setPage 0) s) ∧ (s.stepNo = 1 → step s = exec (.setLowCol (s.row &&& 0x0F)) s) ∧
    (s.stepNo = 2 → step s = exec (.setHighCol (s.row >>> 4)) s) := by
  have hbusy : s.op ≠ .idle := by simp [ho]
  rw [step_fetch hr hf, afterFetch_busy hbusy]
  refine ⟨fun hn => ?_, fun hn => ?_, fun hn => ?_⟩ <;>
    simp [State.fetch, ho, State.fetchDisplay, hrow, hn, State.rowLow, State.rowHigh]

theorem step_data_slot (ho : s.op = .display) (hrow : s.row.toNat < s.par.height) (h3 : 3 ≤ s.stepNo)
    (hn : s.stepNo ≤ s.par.wb + 2) : step s = exec (.data (s.slotByte (s.fb.read s.dataOffset))) s := by
  rw [step_fetch hr hf, fetch_data_slot ho hrow h3 hn, afterFetch_busy (by simp [ho])]
end

/-- Settles O13: for each kind of position, what is fetched there; a command runs as its masked form. -/
theorem stepRunsTheDecodedInstruction : Obligations.StepRunsTheDecodedInstruction := by
  unfold Obligations.StepRunsTheDecodedInstruction
  intro s hp hr hf
  have ht := Params.table_wf hp
  refine ⟨fun w rest i ho hh hi => ?_, step_idle hr hf, fun c v i ho hs hi => ?_, fun c v i ho hs hi => ?_,
    fun e ho hs => ?_, fun e ho hs => ?_, fun i ho hrow hn hi => ?_, fun i ho hrow hn hi => ?_,
    fun i ho hrow hn hi => ?_, fun i ho hrow h3 hn hh hi => ?_, fun i d ho hrow h3 hn hh hi => ?_⟩
  · cases hi
    rw [step_request hr hf ho hh, State.takeRequest, hh, List.tail_cons]
  · rw [exec_of_decode_encBytes ht hi]
    exact step_slot hr hf (.inl ho) (by simpa [State.slot?, ho] using hs)
  · rw [exec_of_decode_encBytes ht hi]
    exact step_slot hr hf (.inr ho) (by simpa [State.slot?, ho] using hs)
  · exact step_slot_pulse hr hf (.inl ho) (by simpa [State.slot?, ho] using hs)
  · exact step_slot_pulse hr hf (.inr ho) (by simpa [State.slot?, ho] using hs)
  · rw [exec_of_decode_encBytes ht hi]
    exact (step_address hr hf ho hrow).1 hn
  · rw [exec_of_decode_encBytes ht hi]
    exact (step_address hr hf ho hrow).2.1 hn
  · rw [exec_of_decode_encBytes ht hi]
    exact (step_address hr hf ho hrow).2.2 hn
  · cases hi
    rw [step_data_slot hr hf ho hrow h3 hn, State.slotByte_unread hh, State.dataOffset]
  · cases hi
    rw [step_data_slot hr hf ho hrow h3 hn, State.slotByte_read hh]

/-! ### Placing -/

theorem decodeTableWord_eq_some {nbits w : Nat} {i : Instr} (h : decodeTableWord nbits w = some i) :
    ∃ k, packetOfTableWord nbits w = some k ∧ decode Table.default k = .ok i := by
  rw [decodeTableWord] at h
  split at h
  · cases h
  · rename_i k hk
    refine ⟨k, hk, ?_⟩
    split at h
    · cases h
      assumption
    · cases h

/-- Every command has its first byte in INIT (42_sequencer.md R147). -/
theorem slot_mem_initPlan (p : Params) (c : Cmd) : Slot.cmd c false ∈ initPlan p := by
  have hfirst : Slot.cmd c false ∈ cmdSlots p.table c := by
    unfold cmdSlots
    split <;> simp
  simp only [initPlan, List.mem_append, List.mem_flatMap, List.mem_singleton]
  cases c with
  | dispOff => exact .inl (.inl (.inr rfl))
  | dispOn => exact .inr rfl
  | _ => exact .inl (.inr ⟨_, by decide, hfirst⟩)

theorem initPlan_initStepOf (p : Params) (c : Cmd) : (initPlan p)[initStepOf p c]? = some (.cmd c false) := by
  have hlt : initStepOf p c < (initPlan p).length :=
    List.findIdx_lt_length_of_exists ⟨_, slot_mem_initPlan p c, beq_self_eq_true _⟩
  have hfound : ((initPlan p)[initStepOf p c]'hlt == .cmd c false) = true :=
    List.findIdx_getElem (p := fun x => x == Slot.cmd c false) (xs := initPlan p) (w := hlt)
  rw [List.getElem?_eq_getElem hlt, beq_iff_eq.mp hfound]

theorem toInstr_withParam (cfg : Cfg) (c : Cmd) (v : Byte) :
    c.toInstr ((Cfg.withParam cfg v c).param c) = c.toInstr v := by
  cases c <;> rfl

theorem step_placeRequest (s : State) (w : ReqWord) :
    step (s.placeRequest w) =
      exec (decodeRequest w) { s.placeRequest w with host := (s.placeRequest w).host.tail } :=
  step_request (s := s.placeRequest w) rfl rfl rfl rfl

theorem step_placeCommand (s : State) (c : Cmd) (v : Byte) :
    step (s.placeCommand c v) = exec (c.toInstr v) (s.placeCommand c v) := by
  have hslot : (s.placeCommand c v).slot? = some (.cmd c false) := initPlan_initStepOf s.par c
  rw [step_slot (s := s.placeCommand c v) rfl rfl (.inl rfl) hslot]
  exact congrArg (exec · _) (toInstr_withParam s.cfg c v)

/-- The buffer's first byte is the reversal of the placed byte (41_bitrev.md R131). -/
theorem step_placeData {s : State} (hp : s.par.wf = true) (hfb : s.fb.wf = true) (d : Byte) :
    step (s.placeData d) = exec (.data d) (s.placeData d) := by
  obtain ⟨-, hheight, -⟩ := (Params.wf_iff s.par).mp hp
  have hwb : 3 ≤ s.par.wb + 2 := Nat.add_le_add_right (Params.wb_pos hp) 2
  have hoff : (s.placeData d).dataOffset = 0 := by simp [State.dataOffset, State.placeData]
  have hread : (s.placeData d).fb.read 0 = rev8 d := (Memory.read_write hfb 0 0 (rev8 d)).trans (if_pos rfl)
  rw [step_data_slot (s := s.placeData d) rfl rfl rfl hheight (Nat.le_refl 3) hwb, State.slotByte_unread rfl, hoff, hread,
    rev8_involutive]

/-- What a list of bytes decodes to is a command. -/
theorem command_of_decode {t : Table} {bytes : List Byte} {i : Instr} (h : decode t (.command bytes) = .ok i) :
    ∃ c v, i.command? = some (c, v) := by
  rw [decode] at h
  split at h
  · cases h
  · rename_i hdec
    cases h
    obtain ⟨c, v, rfl, -⟩ := decodeCommand_eq_ok hdec
    exact ⟨_, _, command_toInstr c v⟩
  · cases h

/-- Settles O14: the word's packet decodes to the instruction, and each kind of packet is placed where it is fetched. -/
theorem placedTableWordIsRunNext : Obligations.PlacedTableWordIsRunNext := by
  unfold Obligations.PlacedTableWordIsRunNext
  intro s nbits w i hp hfb htable hi
  obtain ⟨k, hk, hdec⟩ := decodeTableWord_eq_some hi
  have hplace : s.withFetchWord nbits w = s.place k := by rw [State.withFetchWord, hk]
  rw [hplace]
  cases k with
  | command bytes =>
    obtain ⟨c, v, hc⟩ := command_of_decode hdec
    have hplaced : s.place (.command bytes) = s.placeCommand c v := by simp [State.place, htable, hdec, hc]
    rw [hplaced]
    refine ⟨nofun, fun _ => ?_⟩
    rw [step_placeCommand, toInstr_of_command hc]
  | data d =>
    cases hdec
    exact ⟨nofun, fun _ => step_placeData hp hfb d⟩
  | request r =>
    cases hdec
    exact ⟨fun _ => step_placeRequest s r, fun h => absurd rfl h⟩

/-! ### Requests and steps -/

/-- A step of a block that is busy or faulted takes nothing off the channel. -/
theorem host_of_step {s t : State} (h : s.op ≠ .idle ∨ s.fault = true) (hstep : step s = .next t) : t.host = s.host := by
  rcases step_cases hstep with ⟨-, rfl⟩ | ⟨-, rfl, -⟩ | ⟨-, hf, ho, -⟩ | ⟨-, -, -, -, e, -, -, rfl⟩ |
    ⟨-, -, -, -, e, -, -, rfl⟩ | ⟨-, -, -, -, -, -, -, rfl⟩
  · rfl
  · rfl
  · simp [ho, hf] at h
  · simp
  · simp
  · rfl

/-- Settles O24: the channel is not ready, or the waiting request has its effect. -/
theorem requestsWaitUntilTheBlockIsIdle : Obligations.RequestsWaitUntilTheBlockIsIdle := by
  unfold Obligations.RequestsWaitUntilTheBlockIsIdle
  intro s
  refine ⟨fun h => ?_, fun w rest ho hf hr hh => ⟨_, step_request_effect hr hf ho hh, ?_⟩⟩
  · obtain ⟨hnop, hinit, hdisplay⟩ := exec_requests_wait h
    exact ⟨hnop, hinit, hdisplay, fun t => host_of_step h⟩
  · rcases reqEffect_cases w s.takeRequest with ⟨hw, he⟩ | ⟨hw, he⟩ | ⟨hw, he⟩ | ⟨hw, he⟩ <;>
      simp [he, hw, hh, ho, Op.code]

end Sys2Proof.Machine
end

section
/-! PROOF. The steps of the operations (42_sequencer.md R145 to R155): the event each performs, what it writes and where it
goes, with an environment that answers. -/

namespace Sys2Proof.Machine

/-! ### INIT and DEINIT -/

/-- The pulse waits for the timer, the bytes after it for the transport. -/
theorem answered_init_or_deinit {s : State} {e : Event} (ho : s.op = .init ∨ s.op = .deinit) (he : s.nextEvent = some e)
    (htrans : s.stepNo < 4 ∨ s.env.transport = true) (htimer : s.env.timer = true) : s.answered e = true := by
  rcases nextEvent_init_or_deinit ho he with hp | ⟨h4, b, rfl⟩
  · have hmem := List.mem_of_getElem? hp
    simp only [resetPulse, List.mem_cons, List.not_mem_nil, or_false] at hmem
    rcases hmem with rfl | rfl | rfl | rfl <;> simp [State.answered, htimer]
  · exact htrans.resolve_left (Nat.not_lt.mpr h4)

/-- After the pulse a step leaves DC at COMMAND. -/
theorem dc_init_or_deinit {s : State} {e : Event} (ho : s.op = .init ∨ s.op = .deinit) (he : s.nextEvent = some e)
    (h4 : 4 ≤ s.stepNo) : (s.perform e).dc = .command := by
  rcases nextEvent_init_or_deinit ho he with hp | ⟨-, b, rfl⟩
  · exact absurd (List.getElem?_eq_some_iff.mp hp).1 (Nat.not_lt.mpr h4)
  · rfl

theorem step_init_or_deinit {s : State} {e : Event} (hr : s.rstIn = false) (hf : s.fault = false)
    (htrans : s.stepNo < 4 ∨ s.env.transport = true) (htimer : s.env.timer = true) (ho : s.op = .init ∨ s.op = .deinit)
    (he : s.nextEvent = some e) : step s = .next (s.seqStep e) := by
  have hslot : s.atDataSlot = false := by rcases ho with ho | ho <;> simp [State.atDataSlot, ho]
  exact step_performs hr hf (by simp [hslot]) he (answered_init_or_deinit ho he htrans htimer)

/-- InitList ends with DISPON (42_sequencer.md R147). -/
theorem initList_getElem?_last {p : Params} {n : Nat} (hn : n + 1 = p.initLen) (cfg : Cfg) :
    (initList p cfg)[n]? = some (.tx .command (enc1 p.table .dispOn 0)) := by
  have hlen := initList_length p cfg
  rw [initList, List.length_append, List.length_singleton, ← hn, Nat.add_right_cancel_iff] at hlen
  rw [initList, ← hlen]
  exact List.getElem?_concat_length

/-- Settles O27: the event of the list at STEP, and the advance before the last step and at it. -/
theorem initStepPerformsItsEvent : Obligations.InitStepPerformsItsEvent := by
  unfold Obligations.InitStepPerformsItsEvent
  intro s hr hf ho hn htrans htimer
  obtain ⟨e, hnext⟩ := exists_nextEvent_init ho hn
  have he : (initList s.par s.cfg)[s.stepNo]? = some e := by rw [← nextEvent_init ho, hnext]
  refine ⟨_, e, step_init_or_deinit hr hf (.inr htrans) htimer (.inl ho) hnext, he, s.seqStep_trace e,
    fun h4 => ?_, fun hmid => ?_, fun hlast => ?_⟩
  · rw [State.seqStep_dc, dc_init_or_deinit (.inl ho) hnext h4]
  · obtain ⟨hop, hrow, hstep, hlife, hinit⟩ := State.seqStep_init_mid e ho hmid
    exact ⟨hop, hrow, hstep, hinit, hlife⟩
  · obtain ⟨hop, hrow, hstep, hlife, hinit⟩ := State.seqStep_init_last e ho (by omega)
    rw [initList_getElem?_last hlast] at he
    cases he
    exact ⟨rfl, hop, hrow, hstep, by rw [State.busy, hop]; rfl, hinit, hlife⟩

/-- Settles O28: the same for DEINIT. -/
theorem deinitStepPerformsItsEvent : Obligations.DeinitStepPerformsItsEvent := by
  unfold Obligations.DeinitStepPerformsItsEvent
  intro s hr hf ho hn htrans htimer
  have hlen : Params.deinitLen = 5 := rfl
  obtain ⟨e, hnext⟩ := exists_nextEvent_deinit ho hn
  have he : (deinitList s.par)[s.stepNo]? = some e := by rw [← nextEvent_deinit ho, hnext]
  refine ⟨_, e, step_init_or_deinit hr hf (.inr htrans) htimer (.inr ho) hnext, he, s.seqStep_trace e,
    fun hmid => ?_, fun hlast => ?_⟩
  · obtain ⟨hop, hrow, hstep, hlife, hinit⟩ := State.seqStep_deinit_mid e ho (by omega)
    exact ⟨hop, hrow, hstep, hinit, hlife⟩
  · obtain ⟨hop, hrow, hstep, hlife, hinit⟩ := State.seqStep_deinit_last e ho (by omega)
    exact ⟨hop, hrow, hstep, hinit, hlife⟩

/-! ### DISPLAY -/

section
variable {s : State} (hr : s.rstIn = false) (hf : s.fault = false) (ho : s.op = .display)
  (hrow : s.row.toNat < s.par.height) (htrans : s.env.transport = true)
include hr hf ho hrow htrans

theorem step_address_sends (hn : s.stepNo ≤ 2) : step s = .next (s.seqStep (.tx .command s.addressByte)) := by
  have hslot : s.atDataSlot = false := by simp [State.atDataSlot, ho]; omega
  exact step_performs hr hf (by simp [hslot]) (nextEvent_address ho hrow hn) htrans

theorem step_data_sends (h3 : 3 ≤ s.stepNo) (hn : s.stepNo ≤ s.par.wb + 2) (hin : s.dataOffset < s.lenR)
    (hread : s.env.fbPort = true ∨ s.handed ≠ none) :
    step s = .next (s.seqStep (.tx .data (s.slotByte (s.fb.read s.dataOffset)))) :=
  step_performs hr hf (fun _ => hin) (nextEvent_data_slot ho hrow h3 hn) (answered_data _ hread htrans)
end

/-- Settles O29: the bytes of R153, which with the default table are inside their masks. -/
theorem addressingSlotsSendTheRow : Obligations.AddressingSlotsSendTheRow := by
  unfold Obligations.AddressingSlotsSendTheRow
  intro s hp hr hf ho hrow hn htrans
  have ht := Params.table_wf hp
  have hwb := Params.wb_pos hp
  obtain ⟨hop, hrow', hstep, -⟩ := State.seqStep_display_slot (.tx .command s.addressByte) ho (by omega)
  refine ⟨_, _, step_address_sends hr hf ho hrow htrans hn, State.seqStep_trace _ _, by simp, hop, hrow', hstep,
    fun h => ?_, fun h => ?_, fun h => ?_, fun hd h => ?_, fun hd h => ?_, fun hd h => ?_⟩
  · simp [addressByte_of_slot_zero ht h, enc1, Table.entry]
  · simp [addressByte_of_slot_one ht h, enc1, Table.entry]
  · simp [addressByte_of_slot_two ht h, enc1, Table.entry]
  · simp [addressByte_of_slot_zero ht h, enc1, Table.entry, hd, Table.default]
  · simp [addressByte_of_slot_one ht h, enc1, Table.entry, hd, Table.default]
  · simp [addressByte_of_slot_two ht h, enc1, Table.entry, hd, Table.default]

/-- Settles O30: outside the buffer the slot raises; inside it sends, and the advance goes by column and row. -/
theorem dataSlotSendsTheReversedByteOrRaises : Obligations.DataSlotSendsTheReversedByteOrRaises := by
  unfold Obligations.DataSlotSendsTheReversedByteOrRaises
  rintro s i off hr hf ho hrow hn hi rfl
  have hoff : s.dataOffset = i + s.row.toNat * s.par.wb := by simp [State.dataOffset, hn]
  have h3 : 3 ≤ s.stepNo := by omega
  have hwb : s.stepNo ≤ s.par.wb + 2 := by omega
  rw [← hoff]
  refine ⟨fun hout => step_raises hr hf ho h3 hwb hrow hout, fun hin hread htrans => ?_⟩
  refine ⟨_, _, step_data_sends hr hf ho hrow htrans h3 hwb hin hread, State.seqStep_trace _ _, by simp,
    fun hh => State.slotByte_unread hh _, fun d hh => State.slotByte_read hh _, fun hmid => ?_, fun hend hnext => ?_,
    fun hend hlast => ?_⟩
  · obtain ⟨hop, hrow', hstep, -⟩ := State.seqStep_display_slot _ ho (show s.stepNo < s.par.wb + 2 by omega)
    exact ⟨hop, hrow', hstep⟩
  · obtain ⟨hop, hrow', hstep, -⟩ := State.seqStep_display_row _ ho (show ¬ s.stepNo < s.par.wb + 2 by omega) hnext
    exact ⟨hop, hrow', hstep⟩
  · obtain ⟨hop, hrow', hstep, -⟩ :=
      State.seqStep_display_last _ ho (show ¬ s.stepNo < s.par.wb + 2 by omega) (show ¬ s.row.toNat + 1 < s.par.height by omega)
    exact ⟨hop, hrow', hstep⟩

/-- Settles O31: the slot reads the buffer after the store, or has read it before. -/
theorem hostStoreIsSeenByTheNextRead : Obligations.HostStoreIsSeenByTheNextRead := by
  unfold Obligations.HostStoreIsSeenByTheNextRead
  rintro s off - b hfb hr hf ho hrow h3 hn rfl hin hread htrans
  refine ⟨_, step_data_sends (s := s.storeFb off b) hr hf ho hrow htrans h3 hn hin hread, fun hh => ?_, fun d hh => ?_,
    fun a => ?_⟩
  · rw [State.seqStep_trace, State.slotByte_unread (s := s.storeFb off b) hh, State.storeFb_fb, Memory.read_write hfb]
    rfl
  · rw [State.seqStep_trace, State.slotByte_read (s := s.storeFb off b) hh]
    rfl
  · rw [State.seqStep_fb, State.storeFb_fb, Memory.read_write hfb]

end Sys2Proof.Machine
end

section
/-! PROOF. What one step can do, whatever the environment does: the fields it never writes, the registers and the cases in
which it writes them, and what it performs (00_scope.md R9, R13; 10_state.md R21 to R31). -/

namespace Sys2Proof.Machine

/-! ### The effect of a request -/

/-- An accepted request writes none of these. -/
theorem reqEffect_frame (w : ReqWord) (s : State) :
    (reqEffect w s).par = s.par ∧ (reqEffect w s).env = s.env ∧ (reqEffect w s).fb = s.fb ∧
    (reqEffect w s).trace = s.trace ∧ (reqEffect w s).fault = s.fault ∧ (reqEffect w s).res = s.res ∧
    (reqEffect w s).dc = s.dc ∧ (reqEffect w s).initialized = s.initialized := by
  rcases reqEffect_cases w s with ⟨-, he⟩ | ⟨-, he⟩ | ⟨-, he⟩ | ⟨-, he⟩ <;> rw [he] <;>
    exact ⟨rfl, rfl, rfl, rfl, rfl, rfl, rfl, rfl⟩

/-! ### Fields that no step writes -/

/-- Settles O46: no operation of the block writes them, and the block reset keeps them. -/
theorem stepsNeverWriteMemoryOrParameters : Obligations.StepsNeverWriteMemoryOrParameters := by
  unfold Obligations.StepsNeverWriteMemoryOrParameters
  intro s t h
  rcases step_cases h with ⟨-, rfl⟩ | ⟨-, rfl, -⟩ | ⟨-, hf, ho, w, rest, -, hex⟩ | ⟨-, -, -, -, e, -, -, rfl⟩ |
    ⟨-, -, -, -, e, -, -, rfl⟩ | ⟨-, -, -, -, -, -, -, rfl⟩
  · exact ⟨rfl, rfl, fun _ => rfl⟩
  · exact ⟨rfl, rfl, fun _ => rfl⟩
  · rw [eq_reqEffect hf ho hex]
    obtain ⟨hpar, henv, hfb, -⟩ := reqEffect_frame w s.takeRequest
    exact ⟨hpar, henv, fun a => by rw [hfb, State.takeRequest_fb]⟩
  · simp
  · simp
  · exact ⟨rfl, rfl, fun _ => rfl⟩

/-! ### The registers -/

/-- Settles O47: only the effect of a request writes CFG or LENR. -/
theorem configurationIsWrittenOnlyByInit : Obligations.ConfigurationIsWrittenOnlyByInit := by
  unfold Obligations.ConfigurationIsWrittenOnlyByInit
  intro s t hr h
  rcases step_cases h with ⟨hrst, -⟩ | ⟨-, rfl, -⟩ | ⟨-, hf, ho, w, rest, hh, hex⟩ | ⟨-, -, -, -, e, -, -, rfl⟩ |
    ⟨-, -, -, -, e, -, -, rfl⟩ | ⟨-, -, -, -, -, -, -, rfl⟩
  · simp [hr] at hrst
  · simp
  · rw [eq_reqEffect hf ho hex]
    rcases reqEffect_cases w s.takeRequest with ⟨hw, he⟩ | ⟨hw, he⟩ | ⟨hw, he⟩ | ⟨hw, he⟩ <;> rw [he]
    · simp
    · exact ⟨fun _ => ⟨ho, hf, w, rest, hh, hw, rfl⟩, by simp⟩
    · simp
    · exact ⟨by simp, fun _ => ⟨ho, hf, w, rest, hh, hw, rfl⟩⟩
  · simp
  · simp
  · simp

/-- A step of SEQ writes INITIALIZED at the last step of INIT and of DEINIT (42_sequencer.md R149, R151). -/
theorem seqStep_initialized {s : State} {e : Event} (he : s.nextEvent = some e) :
    (s.seqStep e).initialized =
      if s.op = .init ∧ s.stepNo + 1 = s.par.initLen then true
      else if s.op = .deinit ∧ s.stepNo = 4 then false
      else s.initialized := by
  have hdeinit : Params.deinitLen = 5 := rfl
  rcases State.seqStep_cases e (op_of_nextEvent he) with ⟨hop, hn, -, -, -, -, hinit⟩ | ⟨hop, hn, -, -, -, -, hinit⟩ |
    ⟨hop, hn, -, -, -, -, hinit⟩ | ⟨hop, hn, -, -, -, -, hinit⟩ | ⟨hop, -, -, -, -, -, hinit⟩ |
    ⟨hop, -, -, -, -, -, -, hinit⟩ | ⟨hop, -, -, -, -, -, -, hinit⟩
  · simp [hop, hinit, show s.stepNo + 1 ≠ s.par.initLen by omega]
  · have hlt := stepNo_lt_initLen_of_nextEvent he hop
    simp [hop, hinit, show s.stepNo + 1 = s.par.initLen by omega]
  · simp [hop, hinit, show s.stepNo ≠ 4 by omega]
  · have hlt := stepNo_lt_deinitLen_of_nextEvent he hop
    simp [hop, hinit, show s.stepNo = 4 by omega]
  · simp [hop, hinit]
  · simp [hop, hinit]
  · simp [hop, hinit]

/-- Settles O49: only a step of SEQ that performs its event writes INITIALIZED. -/
theorem initializedIsWrittenByLastStepsOnly : Obligations.InitializedIsWrittenByLastStepsOnly := by
  unfold Obligations.InitializedIsWrittenByLastStepsOnly
  intro s t hr h
  rcases step_cases h with ⟨hrst, -⟩ | ⟨-, rfl, -⟩ | ⟨-, hf, ho, w, rest, -, hex⟩ | ⟨-, -, -, -, e, he, -, rfl⟩ |
    ⟨-, -, -, -, e, -, -, rfl⟩ | ⟨-, -, -, -, -, -, -, rfl⟩
  · simp [hr] at hrst
  · simp
  · rw [eq_reqEffect hf ho hex]
    obtain ⟨-, -, -, htrace, -, -, -, hinit⟩ := reqEffect_frame w s.takeRequest
    simp [htrace, hinit]
  · simp [seqStep_initialized he]
  · simp
  · simp

/-! ### The lines -/

theorem State.dcLine_command {s : State} (h : s.dc = .command) : s.dcLine = s.par.dcCommandLevel := by
  simp [State.dcLine, h]

theorem State.dcLine_data {s : State} (h : s.dc = .data) : s.dcLine = s.par.dcDataLevel := by
  simp [State.dcLine, h]

/-- Settles O50: by the event that is performed or waited for; nothing else writes RES or DC. -/
theorem linesFollowTheirEvents : Obligations.LinesFollowTheirEvents := by
  unfold Obligations.LinesFollowTheirEvents
  intro s t hr h
  rcases step_cases h with ⟨hrst, -⟩ | ⟨-, rfl, -⟩ | ⟨-, hf, ho, w, rest, -, hex⟩ | ⟨-, -, -, -, e, he, -, rfl⟩ |
    ⟨-, -, -, -, e, he, ha, rfl⟩ | ⟨-, -, -, -, -, -, -, rfl⟩
  · simp [hr] at hrst
  · exact .inl ⟨rfl, rfl, rfl⟩
  · rw [eq_reqEffect hf ho hex]
    obtain ⟨-, -, -, htrace, -, hres, hdc, -⟩ := reqEffect_frame w s.takeRequest
    exact .inl ⟨htrace, hres, hdc⟩
  · rcases e with l | ms | ⟨_ | _, b⟩
    · exact .inr (.inl ⟨l, by simp [State.resLine]⟩)
    · exact .inr (.inr (.inl ⟨ms, by simp⟩))
    · have hdc : (s.seqStep (.tx .command b)).dc = .command := by simp
      exact .inr (.inr (.inr (.inl ⟨b, by simp, hdc, by simpa using State.dcLine_command hdc, by simp⟩)))
    · have hdc : (s.seqStep (.tx .data b)).dc = .data := by simp
      exact .inr (.inr (.inr (.inr (.inl ⟨b, by simp, hdc, by simpa using State.dcLine_data hdc, by simp⟩))))
  · rcases e with l | ms | ⟨_ | _, b⟩
    · cases ha
    · exact .inl ⟨rfl, rfl, rfl⟩
    · exact .inr (.inr (.inr (.inr (.inr ⟨.command, b, he, ha, rfl, .inl rfl⟩))))
    · cases hb : s.byteAtHand with
      | false =>
        rw [State.await_data_unread b hb]
        exact .inl ⟨rfl, rfl, rfl⟩
      | true =>
        rw [State.await_data_read b hb]
        have ht : s.env.transport = false := by simpa [State.answered, hb] using ha
        exact .inr (.inr (.inr (.inr (.inr ⟨.data, b, he, ht, rfl, .inr ⟨rfl, rfl⟩⟩))))
  · exact .inl ⟨rfl, rfl, rfl⟩

/-! ### Events and faults -/

theorem not_waiting_of_answering {s : State} (h : s.env = .answering) : ¬ s.Waiting := by
  rintro ⟨-, -, -, e, -, ha⟩
  rw [State.answered_of_answering h e] at ha
  cases ha

/-- Settles O51: a step of SEQ performs its event, waits in it, or raises; any other step performs none. -/
theorem oneEventOrOneFaultPerStep : Obligations.OneEventOrOneFaultPerStep := by
  unfold Obligations.OneEventOrOneFaultPerStep
  intro s t hr h
  rcases step_cases h with ⟨hrst, -⟩ | ⟨-, rfl, hstay⟩ | ⟨-, hf, ho, w, rest, -, hex⟩ | ⟨-, hf, ho, -, e, -, -, rfl⟩ |
    ⟨-, hf, ho, hin, e, he, ha, rfl⟩ | ⟨-, hf, hop, -, -, -, -, rfl⟩
  · simp [hr] at hrst
  · refine ⟨fun ho hf => ?_, not_waiting_of_answering, fun _ => ⟨rfl, rfl⟩⟩
    simp [ho, hf] at hstay
  · rw [eq_reqEffect hf ho hex]
    obtain ⟨-, -, -, htrace, hfault, -⟩ := reqEffect_frame w s.takeRequest
    exact ⟨fun hbusy => absurd ho hbusy, not_waiting_of_answering, fun _ => ⟨htrace, hfault⟩⟩
  · exact ⟨fun _ _ => .inl ⟨⟨e, by simp⟩, by simpa using hf⟩, not_waiting_of_answering, by simp [ho, hf]⟩
  · exact ⟨fun _ _ => .inr (.inr ⟨⟨hr, hf, hin, e, he, ha⟩, State.await_eq s e⟩), not_waiting_of_answering, by simp⟩
  · exact ⟨fun _ _ => .inr (.inl ⟨rfl, rfl⟩), not_waiting_of_answering, by simp [hop, hf]⟩

/-! ### Block reset -/

/-- Settles O39: the block reset wins, and leaves the values of R200. -/
theorem blockResetWinsOverEverything : Obligations.BlockResetWinsOverEverything := by
  unfold Obligations.BlockResetWinsOverEverything
  intro s hr
  refine ⟨_, step_reset hr, rfl, rfl, rfl, rfl, rfl, rfl, rfl, rfl, rfl, fun h => ?_, rfl, rfl, rfl, rfl, fun _ => rfl⟩
  simp [State.blockReset, h]

/-- Settles O40: the fields of `State.reset`. -/
theorem resetStateHasTheSpecifiedValues : Obligations.ResetStateHasTheSpecifiedValues :=
  ⟨rfl, rfl, rfl, rfl, rfl, rfl, rfl, rfl, rfl, rfl, rfl⟩

end Sys2Proof.Machine
end

section
/-! PROOF. Waiting for the environment (20_memory.md R65): a block that waits keeps waiting in the same event, and performs
it once the environment answers as if it had never waited; the one read of a data slot (R51, R61). -/

namespace Sys2Proof.Machine

/-! ### Steps that wait -/

theorem not_answered_of_transport {s : State} (m : Mode) (b : Byte) (h : s.env.transport = false) :
    s.answered (.tx m b) = false := by
  cases m <;> simp [State.answered, h]

section
variable {s : State} (hr : s.rstIn = false) (hf : s.fault = false)
  (hin : s.atDataSlot = true → s.dataOffset < s.lenR)
include hr hf hin

/-- A position whose event the environment does not answer. -/
theorem waiting_and_step {e : Event} (he : s.nextEvent = some e) (ha : s.answered e = false) :
    s.Waiting ∧ step s = .next (s.await e) :=
  ⟨⟨hr, hf, hin, e, he, ha⟩, step_waits hr hf hin he ha⟩

theorem waits_for_timer (ho : s.op = .init ∨ s.op = .deinit) (hn : s.stepNo = 1 ∨ s.stepNo = 3)
    (htimer : s.env.timer = false) : s.Waiting ∧ step s = .next s := by
  have he : (resetPulse s.par)[s.stepNo]? = some (.dly s.par.tResetMs) := by
    rcases hn with hn | hn <;> rw [hn] <;> rfl
  exact waiting_and_step hr hf hin (nextEvent_of_pulse ho he) htimer

/-- A COMMAND byte that the transport does not take. -/
theorem waits_for_transport {b : Byte} (he : s.nextEvent = some (.tx .command b)) (htrans : s.env.transport = false) :
    s.Waiting ∧ step s = .next { s with dc := .command } :=
  waiting_and_step hr hf hin he htrans
end

/-- The positions of COMMAND bytes. -/
theorem nextEvent_command {s : State}
    (h : (s.op = .init ∧ 4 ≤ s.stepNo ∧ s.stepNo < s.par.initLen) ∨ (s.op = .deinit ∧ s.stepNo = 4) ∨
      (s.op = .display ∧ s.row.toNat < s.par.height ∧ s.stepNo ≤ 2)) :
    ∃ b, s.nextEvent = some (.tx .command b) := by
  have hbyte : (∃ e, s.nextEvent = some e) → (s.op = .init ∨ s.op = .deinit) → 4 ≤ s.stepNo →
      ∃ b, s.nextEvent = some (.tx .command b) := fun ⟨e, he⟩ ho h4 => by
    rcases nextEvent_init_or_deinit ho he with hp | ⟨-, b, rfl⟩
    · exact absurd (List.getElem?_eq_some_iff.mp hp).1 (Nat.not_lt.mpr h4)
    · exact ⟨b, he⟩
  rcases h with ⟨ho, h4, hn⟩ | ⟨ho, hn⟩ | ⟨ho, hrow, hn⟩
  · exact hbyte (exists_nextEvent_init ho hn) (.inl ho) h4
  · exact hbyte (exists_nextEvent_deinit ho (by rw [hn]; decide)) (.inr ho) hn.ge
  · exact ⟨_, nextEvent_address ho hrow hn⟩

/-! ### A data slot -/

section
variable {s : State} (hr : s.rstIn = false) (hf : s.fault = false) (ho : s.op = .display)
  (hrow : s.row.toNat < s.par.height) (h3 : 3 ≤ s.stepNo) (hn : s.stepNo ≤ s.par.wb + 2) (hin : s.dataOffset < s.lenR)
include hr hf ho hrow h3 hn hin

theorem data_slot_waits_for_port (hh : s.handed = none) (hport : s.env.fbPort = false) :
    s.Waiting ∧ step s = .next s := by
  have hb : s.byteAtHand = false := by simp [State.byteAtHand, hh, hport]
  have h := waiting_and_step hr hf (fun _ => hin) (nextEvent_data_slot ho hrow h3 hn) (by simp [State.answered, hb])
  rwa [State.await_data_unread _ hb] at h

/-- The byte that the slot sends stays at the transport. -/
theorem data_slot_waits_for_transport (hb : s.byteAtHand = true) (htrans : s.env.transport = false) :
    s.Waiting ∧ step s = .next { s with dc := .data, handed := some (s.slotByte (s.fb.read s.dataOffset)) } := by
  have h := waiting_and_step hr hf (fun _ => hin) (nextEvent_data_slot ho hrow h3 hn)
    (not_answered_of_transport _ _ htrans)
  rwa [State.await_data_read _ hb] at h
end

/-! ### Waiting goes on -/

/-- A block that waits in an event waits in it in its next state, too. -/
theorem waiting_await {s : State} {e : Event} (h : s.Waiting) (he : s.nextEvent = some e) (ha : s.answered e = false) :
    (s.await e).Waiting := by
  obtain ⟨hr, hf, hin, -⟩ := h
  refine ⟨by simpa using hr, by simpa using hf, ?_, e, nextEvent_await he, answered_await ha⟩
  rw [State.await_eq s e]
  exact hin

theorem step_waiting {s : State} {e : Event} (h : s.Waiting) (he : s.nextEvent = some e) (ha : s.answered e = false) :
    step s = .next (s.await e) := by
  obtain ⟨hr, hf, hin, -⟩ := h
  exact step_waits hr hf hin he ha

/-- After the first step of a wait nothing changes any more. -/
theorem afterSteps_waiting {s : State} {e : Event} (h : s.Waiting) (he : s.nextEvent = some e)
    (ha : s.answered e = false) (k : Nat) : State.afterSteps (k + 1) s = some (s.await e) := by
  induction k generalizing s with
  | zero => exact afterSteps_succ.mpr ⟨_, step_waiting h he ha, rfl⟩
  | succ k ih =>
    refine afterSteps_succ.mpr ⟨_, step_waiting h he ha, ?_⟩
    rw [ih (waiting_await h he ha) (nextEvent_await he) (answered_await ha), State.await_await]

theorem busy_of_waiting {s : State} (h : s.Waiting) : s.busy = true := by
  obtain ⟨-, -, -, e, he, -⟩ := h
  simpa [State.busy] using op_of_nextEvent he

/-- Settles O57: each kind of wait, and that a wait lasts. -/
theorem silentEnvironmentHoldsTheBlock : Obligations.SilentEnvironmentHoldsTheBlock := by
  unfold Obligations.SilentEnvironmentHoldsTheBlock
  refine ⟨fun s hr hf => ⟨fun ho hn htimer => ?_, fun hpos htrans => ?_, fun ho hrow h3 hn hin => ⟨?_, ?_, ?_⟩⟩,
    fun k s h => ?_⟩
  · have hslot : s.atDataSlot = false := by rcases ho with ho | ho <;> simp [State.atDataSlot, ho]
    exact waits_for_timer hr hf (by simp [hslot]) ho hn htimer
  · obtain ⟨b, he⟩ := nextEvent_command hpos
    have hslot : ¬ s.atDataSlot = true := fun hslot => by
      obtain ⟨d, hd⟩ := nextEvent_atDataSlot hslot he
      cases hd
    exact waits_for_transport hr hf (fun h => absurd h hslot) he htrans
  · exact data_slot_waits_for_port hr hf ho hrow h3 hn hin
  · intro hh hport htrans
    have h := data_slot_waits_for_transport hr hf ho hrow h3 hn hin (by simp [State.byteAtHand, hport]) htrans
    rwa [State.slotByte_unread hh] at h
  · intro hh htrans
    obtain ⟨d, hd⟩ := Option.ne_none_iff_exists'.mp hh
    have h := data_slot_waits_for_transport hr hf ho hrow h3 hn hin (by simp [State.byteAtHand, hd]) htrans
    rwa [State.slotByte_read hd, ← hd] at h
  · obtain ⟨-, -, -, e, he, ha⟩ := id h
    cases k with
    | zero => exact ⟨s, rfl, h, rfl, busy_of_waiting h⟩
    | succ k =>
      have hwait := waiting_await h he ha
      exact ⟨_, afterSteps_waiting h he ha k, hwait, State.await_eq s e, busy_of_waiting hwait⟩

/-! ### The environment answers again -/

/-- Performing an event after waiting in it, the environment having changed meanwhile. -/
theorem seqStep_setEnv_await (s : State) (e : Event) (env : Env) :
    ((s.await e).setEnv env).seqStep e = (s.setEnv env).seqStep e := by
  rcases e with _ | _ | ⟨_ | _, b⟩
  · rfl
  · rfl
  · rfl
  · cases hb : s.byteAtHand with
    | false => rw [State.await_data_unread b hb]
    | true =>
      rw [State.await_data_read b hb]
      rfl

theorem step_setEnv_answering {s : State} {e : Event} (h : s.Waiting) (he : s.nextEvent = some e) :
    step (s.setEnv .answering) = .next ((s.setEnv .answering).seqStep e) := by
  obtain ⟨hr, hf, hin, -⟩ := h
  exact step_performs (s := s.setEnv .answering) hr hf hin he (State.answered_of_answering rfl e)

/-- Settles O58: the waiting state differs from the state before only in what performing the event writes. -/
theorem waitingLosesNothing : Obligations.WaitingLosesNothing := by
  unfold Obligations.WaitingLosesNothing
  intro k s t h ht
  obtain ⟨-, -, -, e, he, ha⟩ := id h
  have hs := step_setEnv_answering h he
  refine ⟨_, e, ?_, hs, he, by simp⟩
  cases k with
  | zero =>
    cases ht
    exact hs
  | succ k =>
    rw [afterSteps_waiting h he ha k] at ht
    cases ht
    rw [step_setEnv_answering (waiting_await h he ha) (nextEvent_await he), seqStep_setEnv_await]

/-! ### One read -/

/-- Stores write the buffer alone. -/
theorem foldl_storeFb (stores : List (Nat × Byte)) (s : State) :
    ∃ fb, stores.foldl (fun v ob => v.storeFb ob.1 ob.2) s = { s with fb := fb } := by
  induction stores generalizing s with
  | nil => exact ⟨s.fb, rfl⟩
  | cons ob stores ih =>
    obtain ⟨fb, hfb⟩ := ih (s.storeFb ob.1 ob.2)
    exact ⟨fb, hfb⟩

/-- Settles O59: a slot whose byte is at the transport asks neither the port nor the buffer. -/
theorem dataByteIsReadOnceBeforeHandOver : Obligations.DataByteIsReadOnceBeforeHandOver := by
  unfold Obligations.DataByteIsReadOnceBeforeHandOver
  intro s hr hf ho hrow h3 hn hin hh hport htrans
  have hb : s.byteAtHand = true := by simp [State.byteAtHand, hport]
  obtain ⟨-, hstep⟩ := data_slot_waits_for_transport hr hf ho hrow h3 hn hin hb htrans
  rw [State.slotByte_unread hh] at hstep
  refine ⟨_, hstep, rfl, rfl, fun stores e => ?_⟩
  generalize hd : rev8 (s.fb.read s.dataOffset) = d
  obtain ⟨fb, hfb⟩ := foldl_storeFb stores { s with dc := .data, handed := some d }
  rw [hfb]
  intro u
  refine ⟨fun he => ?_, fun he => ⟨_, ?_, State.seqStep_handed u _, State.seqStep_trace u _⟩⟩
  · obtain ⟨-, hu⟩ := data_slot_waits_for_transport (s := u) hr hf ho hrow h3 hn hin rfl he
    exact hu
  · exact step_data_sends (s := u) hr hf ho hrow he h3 hn hin (.inr nofun)

end Sys2Proof.Machine
end

section
/-! PROOF. The whole operations (42_sequencer.md R156, R163): from its acceptance on an operation appends its event list,
one event per step, and ends idle; a DISPLAY of a short buffer faults at the buffer's end (60_exceptions.md R181). -/

namespace Sys2Proof.Machine

/-! ### Runs -/

theorem afterSteps_succ_of_last {k : Nat} {s u t : State} (h : State.afterSteps k s = some u) (hstep : step u = .next t) :
    State.afterSteps (k + 1) s = some t := by
  induction k generalizing s with
  | zero =>
    cases h
    exact afterSteps_succ.mpr ⟨t, hstep, rfl⟩
  | succ k ih =>
    obtain ⟨v, hv, hk⟩ := afterSteps_succ.mp h
    exact afterSteps_succ.mpr ⟨v, hv, ih hk⟩

/-- What each of the first `n` steps of a run carries on holds all along the run. -/
theorem afterSteps_of_progress {P : Nat → State → Prop} {n : Nat} {s : State} (h0 : P 0 s)
    (hP : ∀ k < n, ∀ u, P k u → ∃ t, step u = .next t ∧ P (k + 1) t) :
    ∀ k ≤ n, ∃ u, State.afterSteps k s = some u ∧ P k u := by
  intro k
  induction k with
  | zero => exact fun _ => ⟨s, rfl, h0⟩
  | succ k ih =>
    intro hk
    obtain ⟨u, hu, hPu⟩ := ih (Nat.le_of_succ_le hk)
    obtain ⟨t, ht, hPt⟩ := hP k hk u hPu
    exact ⟨t, afterSteps_succ_of_last hu ht, hPt⟩

theorem take_succ_of_getElem? {α : Type} {l : List α} {k : Nat} {x : α} (h : l[k]? = some x) :
    l.take (k + 1) = l.take k ++ [x] := by
  rw [List.take_add_one, h, Option.toList_some]

/-! ### INIT and DEINIT -/

/-- The event list of INIT or DEINIT in a state of it. -/
def State.opList (s : State) : List Event :=
  if s.op = .init then initList s.par s.cfg else deinitList s.par

theorem State.opList_init {s : State} (ho : s.op = .init) : s.opList = initList s.par s.cfg := if_pos ho

theorem State.opList_deinit {s : State} (ho : s.op = .deinit) : s.opList = deinitList s.par := if_neg (by simp [ho])

theorem nextEvent_opList {s : State} (ho : s.op = .init ∨ s.op = .deinit) : s.nextEvent = s.opList[s.stepNo]? := by
  rcases ho with ho | ho
  · rw [nextEvent_init ho, State.opList_init ho]
  · rw [nextEvent_deinit ho, State.opList_deinit ho]

theorem seqStep_eq (s : State) (e : Event) :
    s.seqStep e = ({ s with dc := (s.perform e).dc, res := (s.perform e).res, handed := none,
                            trace := s.trace ++ [e] } : State).advance := by
  rw [State.seqStep]
  cases e <;> rfl

/-- Before its last step an operation that is not DISPLAY stays where it is and goes to the next value of STEP. -/
theorem seqStep_opList_mid {s : State} (e : Event) (ho : s.op = .init ∨ s.op = .deinit)
    (hn : s.stepNo + 1 < s.opList.length) :
    s.seqStep e = { s with stepNo := s.stepNo + 1, life := (s.seqStep e).life, dc := (s.perform e).dc,
                           res := (s.perform e).res, handed := none, trace := s.trace ++ [e] } ∧
      (s.op = .deinit → (s.seqStep e).life = s.life) := by
  rcases ho with ho | ho
  · rw [State.opList_init ho, initList_length] at hn
    refine ⟨?_, by simp [ho]⟩
    rw [seqStep_eq, State.advance_init_mid (by exact ho) (by exact hn)]
  · rw [State.opList_deinit ho] at hn
    refine ⟨?_, fun _ => (State.seqStep_deinit_mid e ho hn).2.2.2.1⟩
    rw [seqStep_eq, State.advance_deinit_mid (by exact ho) (by exact hn)]

/-- The operation that begins in `a`, at STEP = `k`, with what its events have written. -/
def State.opState (a : State) (k : Nat) (l : Life) (d : Mode) (r : Level) (h : Option Byte) : State :=
  { a with stepNo := k, life := l, dc := d, res := r, handed := h, trace := a.trace ++ a.opList.take k }

theorem State.opState_record {a : State} {k : Nat} {e : Event} (he : a.opList[k]? = some e) {l l' : Life} {d d' : Mode}
    {r r' : Level} {h h' : Option Byte} :
    { a.opState k l d r h with stepNo := k + 1, life := l', dc := d', res := r', handed := h',
                               trace := (a.opState k l d r h).trace ++ [e] } = a.opState (k + 1) l' d' r' h' := by
  simp [State.opState, take_succ_of_getElem? he]

/-- `u` is `k` steps into the INIT or DEINIT that begins in `a`: nothing else has changed, DEINIT has kept LIFE, and RES
is where the pulse has driven it. -/
def State.OpAt (a : State) (k : Nat) (u : State) : Prop :=
  ∃ l d r h, u = a.opState k l d r h ∧ (a.op = .deinit → l = a.life) ∧
    (k ≠ 0 → r = if k ≤ 2 then a.par.resAssert else !a.par.resAssert)

theorem State.OpAt.zero {a : State} (hn : a.stepNo = 0) : a.OpAt 0 a := by
  refine ⟨a.life, a.dc, a.res, a.handed, ?_, fun _ => rfl, fun h => absurd rfl h⟩
  rw [State.opState, List.take_zero, List.append_nil, ← hn]

section
variable {a : State} (hr : a.rstIn = false) (hf : a.fault = false) (ho : a.op = .init ∨ a.op = .deinit)
  (htimer : a.env.timer = true)
include hr hf ho htimer

/-- The step at STEP = `k` performs entry `k` of the list. -/
theorem step_opState {k : Nat} (htrans : k < 4 ∨ a.env.transport = true) (l : Life) (d : Mode) (r : Level)
    (h : Option Byte) {e : Event} (he : a.opList[k]? = some e) :
    (a.opState k l d r h).nextEvent = some e ∧ step (a.opState k l d r h) = .next ((a.opState k l d r h).seqStep e) := by
  have hnext : (a.opState k l d r h).nextEvent = some e := (nextEvent_opList (s := a.opState k l d r h) ho).trans he
  exact ⟨hnext, step_init_or_deinit (s := a.opState k l d r h) hr hf htrans htimer ho hnext⟩

theorem State.OpAt.step {k : Nat} (htrans : k < 4 ∨ a.env.transport = true) (hk : k + 1 < a.opList.length) {u : State}
    (hu : a.OpAt k u) : ∃ t, Machine.step u = .next t ∧ a.OpAt (k + 1) t := by
  obtain ⟨l, d, r, h, rfl, hlife, hres⟩ := hu
  have he : a.opList[k]? = some a.opList[k] := List.getElem?_eq_getElem (Nat.lt_of_succ_lt hk)
  obtain ⟨hnext, hstep⟩ := step_opState hr hf ho htimer htrans l d r h he
  obtain ⟨heq, hkeep⟩ := seqStep_opList_mid (s := a.opState k l d r h) a.opList[k] ho hk
  have hperform := perform_res_of_nextEvent hnext
  refine ⟨_, hstep, _, _, _, none, heq.trans (State.opState_record he), fun hop => (hkeep hop).trans (hlife hop),
    fun _ => hperform.trans ?_⟩
  · have hpos : ((a.opState k l d r h).op = .init ∨ (a.opState k l d r h).op = .deinit) := ho
    simp only [hpos, true_and]
    show (if k = 0 then a.par.resAssert else if k = 2 then !a.par.resAssert else r) = _
    split_ifs with h0 h2 <;> grind

/-- The run of INIT or DEINIT up to any entry of its list that is not beyond the last. The pulse asks the timer alone. -/
theorem afterSteps_opAt (hn : a.stepNo = 0) {m : Nat} (htrans : m ≤ 4 ∨ a.env.transport = true)
    (hm : m < a.opList.length) : ∀ k ≤ m, ∃ u, State.afterSteps k a = some u ∧ a.OpAt k u :=
  afterSteps_of_progress (State.OpAt.zero hn) fun _ hk _ hu =>
    hu.step hr hf ho htimer (htrans.imp_left (Nat.lt_of_lt_of_le hk)) (Nat.lt_of_le_of_lt hk hm)

/-- The step of the last entry, a COMMAND byte, records it; what is left is the advance that ends the operation. -/
theorem afterSteps_opList_length (hn : a.stepNo = 0) (htrans : a.env.transport = true) {m : Nat} (h2 : 2 < m)
    (hm : m + 1 = a.opList.length) {b : Byte} (hb : a.opList[m]? = some (.tx .command b)) :
    ∃ l, State.afterSteps (m + 1) a = some
      ({ a with stepNo := m, life := l, dc := .command, res := !a.par.resAssert, handed := none,
                trace := a.trace ++ a.opList } : State).advance := by
  obtain ⟨u, hu, l, d, r, h, rfl, -, hres⟩ := afterSteps_opAt hr hf ho htimer hn (.inr htrans) (m := m) (by omega) m le_rfl
  obtain ⟨-, hstep⟩ := step_opState hr hf ho htimer (.inr htrans) l d r h hb
  refine ⟨l, (afterSteps_succ_of_last hu hstep).trans (congrArg some ?_)⟩
  have hall : a.opList.take m ++ [.tx .command b] = a.opList := by
    rw [← take_succ_of_getElem? hb, hm, List.take_length]
  have hr' : r = !a.par.resAssert := by rw [hres (by omega), if_neg (by omega)]
  rw [seqStep_eq]
  simp [State.opState, hall, hr']
end

/-- The list of INIT or DEINIT is the pulse and more. -/
theorem opList_eq {a : State} (ho : a.op = .init ∨ a.op = .deinit) :
    ∃ b bs, a.opList = resetPulse a.par ++ .tx .command b :: bs := by
  rcases ho with ho | ho
  · rw [State.opList_init ho, initList, List.append_assoc, List.append_assoc]
    exact ⟨_, _, rfl⟩
  · rw [State.opList_deinit ho, deinitList]
    exact ⟨_, _, rfl⟩

/-- Settles O56: the first four steps of the run. -/
theorem resetPulseFollowsResAssert : Obligations.ResetPulseFollowsResAssert := by
  unfold Obligations.ResetPulseFollowsResAssert
  intro s hr hf ho hn htimer
  obtain ⟨b, bs, hlist⟩ := opList_eq ho
  have hlen : 4 < s.opList.length := by simp [hlist, resetPulse]
  have hrun := afterSteps_opAt hr hf ho htimer hn (.inl (Nat.le_refl 4)) hlen
  obtain ⟨_, h₁, _, _, _, _, rfl, _, hres₁⟩ := hrun 1 (by decide)
  obtain ⟨_, h₂, _, _, _, _, rfl, _, hres₂⟩ := hrun 2 (by decide)
  obtain ⟨_, h₃, _, _, _, _, rfl, _, hres₃⟩ := hrun 3 (by decide)
  obtain ⟨_, h₄, _, _, _, _, rfl, _, hres₄⟩ := hrun 4 (by decide)
  refine ⟨_, _, _, _, h₁, hres₁ (by decide), h₂, hres₂ (by decide), h₃, hres₃ (by decide), h₄, hres₄ (by decide),
    rfl, rfl, ?_⟩
  rw [State.opState, hlist]
  rfl

section
variable {a : State} (hr : a.rstIn = false) (hf : a.fault = false) (htimer : a.env.timer = true)
  (htrans : a.env.transport = true) (hn : a.stepNo = 0)
include hr hf htimer htrans hn

/-- INIT ends initialized and ON (42_sequencer.md R149). -/
theorem afterSteps_initLen (ho : a.op = .init) :
    State.afterSteps a.par.initLen a =
      some { a with op := .idle, row := 0, stepNo := 0, life := .on, initialized := true, dc := .command,
                    res := !a.par.resAssert, handed := none, trace := a.trace ++ initList a.par a.cfg } := by
  have hlen := four_lt_initLen a.par
  obtain ⟨m, hm⟩ := Nat.exists_eq_succ_of_ne_zero (show a.par.initLen ≠ 0 by omega)
  have hlist := State.opList_init ho
  obtain ⟨l, h⟩ := afterSteps_opList_length hr hf (.inl ho) htimer hn htrans (m := m) (by omega)
    (by rw [hlist, initList_length, hm]) (by rw [hlist, initList_getElem?_last hm.symm])
  rw [hm]
  refine h.trans ?_
  rw [State.advance_init_last (by exact ho) (by simp [hm]), hlist]

/-- DEINIT ends not initialized (42_sequencer.md R151). -/
theorem afterSteps_deinitLen (ho : a.op = .deinit) :
    State.afterSteps 5 a =
      some { a with op := .idle, row := 0, stepNo := 0, life := .deinit, initialized := false, dc := .command,
                    res := !a.par.resAssert, handed := none, trace := a.trace ++ deinitList a.par } := by
  have hlist := State.opList_deinit ho
  obtain ⟨l, h⟩ := afterSteps_opList_length hr hf (.inr ho) htimer hn htrans (m := 4) (by decide)
    (by rw [hlist]; rfl) (by rw [hlist]; rfl)
  refine h.trans ?_
  rw [State.advance_deinit_last (by exact ho) (Nat.lt_irrefl 5), hlist]
end

/-- The state in which an accepted INIT leaves a ready block. -/
def State.startInit (s : State) (cfg : Cfg) : State :=
  { s with cfg := cfg, life := .resetting, op := .init, row := 0, stepNo := 0 }

/-- The state in which an accepted DEINIT leaves a ready block. -/
def State.startDeinit (s : State) : State := { s with op := .deinit, row := 0, stepNo := 0 }

/-- The state in which an accepted DISPLAY leaves a ready block. -/
def State.startDisplay (s : State) (len : Nat) : State := { s with lenR := len, op := .display, row := 0, stepNo := 0 }

theorem exec_starts {s : State} (ho : s.op = .idle) (hf : s.fault = false) :
    (∀ cfg, exec (.init cfg) s = .next (s.startInit cfg)) ∧ exec .deinit s = .next s.startDeinit ∧
      ∀ len, exec (.display len) s = .next (s.startDisplay len) :=
  (requestsAreAcceptedAtOnce s ho hf).2

/-- Settles O34: the run up to the last entry of InitList, and the whole run. -/
theorem initRunsItsWholeList : Obligations.InitRunsItsWholeList := by
  unfold Obligations.InitRunsItsWholeList
  intro s cfg ho hf hr htrans htimer
  obtain ⟨hstart, -, -⟩ := exec_starts ho hf
  refine ⟨s.startInit cfg, hstart cfg, fun k hk => ?_, ?_⟩
  · have hlt : k < (s.startInit cfg).opList.length := by
      rw [State.opList_init rfl, initList_length]
      exact hk
    obtain ⟨u, hu, _, _, _, _, rfl, -⟩ :=
      afterSteps_opAt (a := s.startInit cfg) hr hf (.inl rfl) htimer rfl (.inr htrans) hlt k le_rfl
    exact ⟨_, hu, rfl, rfl, rfl⟩
  · rw [ho]
    exact afterSteps_initLen (a := s.startInit cfg) hr hf htimer htrans rfl rfl

/-- Settles O35: the same for DEINIT. -/
theorem deinitRunsItsWholeList : Obligations.DeinitRunsItsWholeList := by
  unfold Obligations.DeinitRunsItsWholeList
  intro s ho hf hr htrans htimer
  obtain ⟨-, hstart, -⟩ := exec_starts ho hf
  refine ⟨s.startDeinit, hstart, fun k hk => ?_, ?_⟩
  · have hlt : k < s.startDeinit.opList.length := by rwa [State.opList_deinit rfl]
    obtain ⟨u, hu, _, _, _, _, rfl, hlife, -⟩ :=
      afterSteps_opAt (a := s.startDeinit) hr hf (.inr rfl) htimer rfl (.inr htrans) hlt k le_rfl
    exact ⟨_, hu, rfl, rfl, hlife rfl, rfl, rfl⟩
  · rw [ho]
    exact afterSteps_deinitLen (a := s.startDeinit) hr hf htimer htrans rfl rfl

end Sys2Proof.Machine
end

section
/-! PROOF. The whole DISPLAY (42_sequencer.md R155, R163): step k of it performs event k of DisplayList at row k div (3 + WB)
and slot k mod (3 + WB), up to the frame's end, or to the buffer's end where that comes first (60_exceptions.md R181). -/

namespace Sys2Proof.Machine

/-! ### DisplayList by row and slot -/

theorem getElem?_flatMap_range {α : Type} {f : Nat → List α} {m h j i : Nat} (hlen : ∀ j, (f j).length = m) (hj : j < h)
    (hi : i < m) : ((List.range h).flatMap f)[j * m + i]? = (f j)[i]? := by
  induction h with
  | zero => exact absurd hj (Nat.not_lt_zero j)
  | succ h ih =>
    have hrows : ((List.range h).flatMap f).length = h * m := by simp [List.length_flatMap, hlen]
    rw [List.range_succ, List.flatMap_append, List.flatMap_singleton]
    rcases Nat.lt_succ_iff_lt_or_eq.mp hj with hlt | rfl
    · have hin : j * m + i < h * m := by
        calc j * m + i < j * m + m := Nat.add_lt_add_left hi _
          _ = (j + 1) * m := (Nat.succ_mul j m).symm
          _ ≤ h * m := Nat.mul_le_mul_right m hlt
      rw [List.getElem?_append_left (hrows ▸ hin), ih hlt]
    · rw [List.getElem?_append_right (hrows ▸ Nat.le_add_right _ _), hrows, Nat.add_sub_cancel_left]

theorem div_lt_height {p : Params} {k : Nat} : k / (3 + p.wb) < p.height ↔ k < p.height * (3 + p.wb) :=
  Nat.div_lt_iff_lt_mul (by omega)

theorem displayList_length (p : Params) (fb : Nat → Byte) : (displayList p fb).length = p.height * (3 + p.wb) := by
  simp [displayList, List.length_flatMap, rowList_length]

/-- Entry `k` of DisplayList. -/
theorem displayList_getElem? {p : Params} {k : Nat} (hk : k < p.height * (3 + p.wb)) (fb : Nat → Byte) :
    (displayList p fb)[k]? = (rowList p fb (k / (3 + p.wb)))[k % (3 + p.wb)]? := by
  have hpos : 0 < 3 + p.wb := by omega
  have h := getElem?_flatMap_range (rowList_length p fb) (div_lt_height.mpr hk)
    (Nat.mod_lt k hpos)
  rwa [Nat.div_add_mod'] at h

/-- The event of a slot whose byte has not been read is the row's entry at the slot: a DATA byte from slot 3 on. -/
theorem nextEvent_rowList {s : State} (ht : s.par.table.wf = true) (ho : s.op = .display)
    (hrow : s.row.toNat < s.par.height) (hn : s.stepNo ≤ s.par.wb + 2) (hh : 3 ≤ s.stepNo → s.handed = none) :
    ∃ m b, (rowList s.par s.fb.read s.row.toNat)[s.stepNo]? = some (.tx m b) ∧ s.nextEvent = some (.tx m b) ∧
      (3 ≤ s.stepNo → m = .data) := by
  by_cases h3 : 3 ≤ s.stepNo
  · refine ⟨.data, _, ?_, nextEvent_data_slot ho hrow h3 hn, fun _ => rfl⟩
    rw [State.slotByte_unread (hh h3), rowList, List.getElem?_append_right h3]
    simp [State.dataOffset, show s.stepNo - 3 < s.par.wb by omega]
  · have h2 : s.stepNo ≤ 2 := by omega
    exact ⟨.command, _, addressByte_eq ht h2 s.fb.read, nextEvent_address ho hrow h2, fun h => absurd h h3⟩

/-! ### The run -/

theorem succ_div_mod_of_lt {k m : Nat} (h : k % m + 1 < m) : (k + 1) / m = k / m ∧ (k + 1) % m = k % m + 1 := by
  have hk := Nat.mod_add_div k m
  exact (Nat.div_mod_unique (by omega)).mpr ⟨by omega, h⟩

theorem succ_div_mod_of_eq {k m : Nat} (h : k % m + 1 = m) : (k + 1) / m = k / m + 1 ∧ (k + 1) % m = 0 := by
  have hk := Nat.mod_add_div k m
  exact (Nat.div_mod_unique (by omega)).mpr ⟨by rw [Nat.mul_succ]; omega, by omega⟩

/-- The last of `n` rows of `m` ends at its last column. -/
theorem div_mod_of_succ_eq_mul {k n m : Nat} (hm : 0 < m) (h : k + 1 = n * m) : k / m + 1 = n ∧ k % m + 1 = m := by
  have hmod : (k + 1) % m = 0 := by rw [h, Nat.mul_mod_left]
  have hlast : k % m + 1 = m := by
    refine Nat.le_antisymm (Nat.mod_lt k hm) (Nat.not_lt.mp fun hlt => ?_)
    obtain ⟨-, hsucc⟩ := succ_div_mod_of_lt hlt
    omega
  obtain ⟨hdiv, -⟩ := succ_div_mod_of_eq hlast
  exact ⟨by rw [← hdiv, h, Nat.mul_div_cancel n hm], hlast⟩

/-- The offset that event `k` of DisplayList reads, where it is a data slot. -/
def slotOffset (p : Params) (k : Nat) : Nat := k % (3 + p.wb) - 3 + k / (3 + p.wb) * p.wb

/-- The DISPLAY that begins in `a`, after `k` events, with what they have written. -/
def State.frameState (a : State) (k : Nat) (d : Mode) (h : Option Byte) : State :=
  { a with row := BitVec.ofNat 8 (k / (3 + a.par.wb)), stepNo := k % (3 + a.par.wb), dc := d, handed := h,
           trace := a.trace ++ (displayList a.par a.fb.read).take k }

/-- `u` is `k` steps into the DISPLAY that begins in `a`: nothing else has changed, and nothing waits at the transport. -/
def State.FrameAt (a : State) (k : Nat) (u : State) : Prop :=
  ∃ d h, u = a.frameState k d h ∧ (k ≠ 0 → h = none)

theorem State.FrameAt.zero {a : State} (hrow : a.row = 0) (hn : a.stepNo = 0) : a.FrameAt 0 a := by
  refine ⟨a.dc, a.handed, ?_, fun h => absurd rfl h⟩
  rw [State.frameState, Nat.zero_div, Nat.zero_mod, List.take_zero, List.append_nil]
  exact congrArg₂ (fun r n => { a with row := r, stepNo := n }) hrow hn

section
variable {a : State} (hp : a.par.wf = true) {k : Nat} (hk : k < a.par.height * (3 + a.par.wb)) (d : Mode) (h : Option Byte)
include hp hk

theorem frameState_row_toNat : (a.frameState k d h).row.toNat = k / (3 + a.par.wb) := by
  obtain ⟨-, -, hheight, -⟩ := (Params.wf_iff a.par).mp hp
  have hlt : k / (3 + a.par.wb) < a.par.height := div_lt_height.mpr hk
  exact Nat.mod_eq_of_lt (by omega)

theorem frameState_inside :
    (a.frameState k d h).row.toNat < a.par.height ∧ (a.frameState k d h).stepNo ≤ a.par.wb + 2 := by
  have hmod : k % (3 + a.par.wb) < 3 + a.par.wb := Nat.mod_lt k (by omega)
  rw [frameState_row_toNat hp hk]
  exact ⟨div_lt_height.mpr hk, show k % (3 + a.par.wb) ≤ a.par.wb + 2 by omega⟩

theorem frameState_dataOffset : (a.frameState k d h).dataOffset = slotOffset a.par k := by
  rw [State.dataOffset, frameState_row_toNat hp hk]
  rfl

/-- The advance within the frame. -/
theorem seqStep_frameState_mid {m : Mode} {b : Byte} (ho : a.op = .display) (hk' : k + 1 < a.par.height * (3 + a.par.wb))
    (he : (displayList a.par a.fb.read)[k]? = some (.tx m b)) :
    (a.frameState k d h).seqStep (.tx m b) = a.frameState (k + 1) m none := by
  have hrow := frameState_row_toNat hp hk d h
  have hmod : k % (3 + a.par.wb) < 3 + a.par.wb := Nat.mod_lt k (by omega)
  rw [seqStep_eq]
  by_cases hn : k % (3 + a.par.wb) < a.par.wb + 2
  · obtain ⟨hdiv', hmod'⟩ := succ_div_mod_of_lt (show k % (3 + a.par.wb) + 1 < 3 + a.par.wb by omega)
    rw [State.advance_display_slot (by exact ho) (by exact hn)]
    simp [State.frameState, take_succ_of_getElem? he, hdiv', hmod']
  · obtain ⟨hdiv', hmod'⟩ := succ_div_mod_of_eq (show k % (3 + a.par.wb) + 1 = 3 + a.par.wb by omega)
    have hnext : k / (3 + a.par.wb) + 1 < a.par.height := by
      rw [← hdiv']
      exact div_lt_height.mpr hk'
    rw [State.advance_display_row (by exact ho) (by exact hn) (by rw [← hrow] at hnext; exact hnext)]
    simp [State.frameState, take_succ_of_getElem? he, hdiv', hmod', BitVec.ofNat_add]

/-- The advance at the end of the frame. -/
theorem seqStep_frameState_last {m : Mode} {b : Byte} (ho : a.op = .display) (hk' : k + 1 = a.par.height * (3 + a.par.wb))
    (he : (displayList a.par a.fb.read)[k]? = some (.tx m b)) :
    (a.frameState k d h).seqStep (.tx m b) =
      { a with op := .idle, row := 0, stepNo := 0, dc := m, handed := none,
               trace := a.trace ++ displayList a.par a.fb.read } := by
  have hrow := frameState_row_toNat hp hk d h
  have hall : (displayList a.par a.fb.read).take k ++ [.tx m b] = displayList a.par a.fb.read := by
    rw [← take_succ_of_getElem? he, hk', ← displayList_length a.par a.fb.read, List.take_length]
  obtain ⟨hdiv, hmod⟩ := div_mod_of_succ_eq_mul (by omega) hk'
  rw [← hrow] at hdiv
  rw [seqStep_eq, State.advance_display_last (by exact ho) (show ¬ k % (3 + a.par.wb) < a.par.wb + 2 by omega)
    (by exact Nat.not_lt.mpr hdiv.ge)]
  simp [State.frameState, hall]

/-- The step after `k` events performs event `k`, where the buffer holds the byte it asks for. -/
theorem step_frameState (hr : a.rstIn = false) (hf : a.fault = false) (ho : a.op = .display) (hport : a.env.fbPort = true)
    (htrans : a.env.transport = true) (hh : k ≠ 0 → h = none)
    (hin : 3 ≤ k % (3 + a.par.wb) → slotOffset a.par k < a.lenR) :
    ∃ m b, (displayList a.par a.fb.read)[k]? = some (.tx m b) ∧ (3 ≤ k % (3 + a.par.wb) → m = .data) ∧
      step (a.frameState k d h) = .next ((a.frameState k d h).seqStep (.tx m b)) := by
  obtain ⟨hrow, hn⟩ := frameState_inside hp hk d h
  have hhanded : 3 ≤ (a.frameState k d h).stepNo → (a.frameState k d h).handed = none := by
    intro h3
    refine hh fun h0 => ?_
    subst h0
    exact absurd h3 (by simp [State.frameState])
  obtain ⟨m, b, hlist, hnext, hm⟩ := nextEvent_rowList (s := a.frameState k d h) (Params.table_wf hp) ho hrow hn hhanded
  rw [frameState_row_toNat hp hk] at hlist
  refine ⟨m, b, (displayList_getElem? hk _).trans hlist, hm, ?_⟩
  refine step_performs (s := a.frameState k d h) hr hf (fun hslot => ?_) hnext ?_
  · rw [frameState_dataOffset hp hk]
    exact hin (atDataSlot_iff.mp hslot).2
  · cases m with
    | command => exact htrans
    | data => exact answered_data _ (.inl hport) htrans

/-- At a data slot outside the buffer the step raises. -/
theorem step_frameState_raises (hr : a.rstIn = false) (hf : a.fault = false) (ho : a.op = .display)
    (h3 : 3 ≤ k % (3 + a.par.wb)) (hout : a.lenR ≤ slotOffset a.par k) :
    step (a.frameState k d h) = .next ((a.frameState k d h).raise .fbOutOfBounds (slotOffset a.par k)) := by
  obtain ⟨hrow, hn⟩ := frameState_inside hp hk d h
  have hoff := frameState_dataOffset hp hk d h
  have hstep := step_raises (s := a.frameState k d h) hr hf ho h3 hn hrow (by rw [hoff]; exact hout)
  rwa [hoff] at hstep
end

section
variable {a : State} (hp : a.par.wf = true) (hr : a.rstIn = false) (hf : a.fault = false) (ho : a.op = .display)
  (hport : a.env.fbPort = true) (htrans : a.env.transport = true) (hrow : a.row = 0) (hn : a.stepNo = 0)
include hp hr hf ho hport htrans hrow hn

/-- The run up to any position of the frame before which every data slot is inside the buffer. -/
theorem afterSteps_frameAt {n : Nat} (hn' : n < a.par.height * (3 + a.par.wb))
    (hin : ∀ k < n, 3 ≤ k % (3 + a.par.wb) → slotOffset a.par k < a.lenR) :
    ∀ k ≤ n, ∃ u, State.afterSteps k a = some u ∧ a.FrameAt k u := by
  refine afterSteps_of_progress (State.FrameAt.zero hrow hn) fun k hk u hu => ?_
  obtain ⟨d, h, rfl, hh⟩ := hu
  have hk' : k + 1 < a.par.height * (3 + a.par.wb) := Nat.lt_of_le_of_lt hk hn'
  obtain ⟨m, b, he, -, hstep⟩ := step_frameState hp (Nat.lt_of_succ_lt hk') d h hr hf ho hport htrans hh (hin k hk)
  rw [seqStep_frameState_mid hp (Nat.lt_of_succ_lt hk') d h ho hk' he] at hstep
  exact ⟨_, hstep, m, none, rfl, fun _ => rfl⟩

/-- A run over a buffer that covers the frame ends idle, with DC at DATA. -/
theorem afterSteps_frame (hin : ∀ k < a.par.height * (3 + a.par.wb), 3 ≤ k % (3 + a.par.wb) → slotOffset a.par k < a.lenR) :
    State.afterSteps (a.par.height * (3 + a.par.wb)) a =
      some { a with op := .idle, row := 0, stepNo := 0, dc := .data, handed := none,
                    trace := a.trace ++ displayList a.par a.fb.read } := by
  obtain ⟨-, hheight, -⟩ := (Params.wf_iff a.par).mp hp
  have hwb := Params.wb_pos hp
  have hpos : a.par.height * (3 + a.par.wb) ≠ 0 := Nat.mul_ne_zero (by omega) (by omega)
  obtain ⟨n, hlast⟩ := Nat.exists_eq_succ_of_ne_zero hpos
  have hlt : n < a.par.height * (3 + a.par.wb) := by omega
  obtain ⟨-, hmod⟩ := div_mod_of_succ_eq_mul (by omega) hlast.symm
  obtain ⟨u, hu, d, h, rfl, hh⟩ := afterSteps_frameAt hp hr hf ho hport htrans hrow hn hlt
    (fun k hk => hin k (Nat.lt_trans hk hlt)) n le_rfl
  obtain ⟨m, b, he, hm, hstep⟩ := step_frameState hp hlt d h hr hf ho hport htrans hh (hin n hlt)
  rw [seqStep_frameState_last hp hlt d h ho hlast.symm he, hm (by omega)] at hstep
  rw [hlast]
  exact afterSteps_succ_of_last hu hstep
end

theorem slotOffset_lt_frameBytes {p : Params} {k : Nat} (hk : k < p.height * (3 + p.wb)) (h3 : 3 ≤ k % (3 + p.wb)) :
    slotOffset p k < p.frameBytes := by
  have hmod : k % (3 + p.wb) < 3 + p.wb := Nat.mod_lt k (by omega)
  exact offset_lt_frameBytes (div_lt_height.mpr hk) h3 (by omega)

/-- Settles O36: a buffer that covers the frame is never left. -/
theorem displayRunsTheWholeFrame : Obligations.DisplayRunsTheWholeFrame := by
  unfold Obligations.DisplayRunsTheWholeFrame
  intro s len hp ho hf hr hlen hport htrans
  obtain ⟨-, -, hstart⟩ := exec_starts ho hf
  have hin : ∀ k < s.par.height * (3 + s.par.wb), 3 ≤ k % (3 + s.par.wb) → slotOffset s.par k < len :=
    fun k hk h3 => Nat.lt_of_lt_of_le (slotOffset_lt_frameBytes hk h3) hlen
  refine ⟨_, hstart len, fun k hk => ?_, ?_⟩
  · obtain ⟨u, hu, d, h, rfl, -⟩ := afterSteps_frameAt (a := s.startDisplay len)
      hp hr hf rfl hport htrans rfl rfl hk (fun j hj => hin j (Nat.lt_trans hj hk)) k le_rfl
    exact ⟨_, hu, rfl, frameState_row_toNat (a := s.startDisplay len) hp hk d h, rfl, rfl⟩
  · rw [ho]
    exact afterSteps_frame (a := s.startDisplay len) hp hr hf rfl hport htrans rfl rfl hin

/-- The row and the slot of the byte at offset `len`. -/
theorem div_mod_of_offset {p : Params} {len n : Nat} (hwb : 1 ≤ p.wb)
    (hn : n = len / p.wb * (3 + p.wb) + (3 + len % p.wb)) :
    n / (3 + p.wb) = len / p.wb ∧ n % (3 + p.wb) = 3 + len % p.wb := by
  have hmod : len % p.wb < p.wb := Nat.mod_lt len hwb
  exact (Nat.div_mod_unique (by omega)).mpr ⟨by rw [hn, Nat.mul_comm, Nat.add_comm], by omega⟩

/-- A data slot before the slot of offset `len` reads a byte before it. -/
theorem slotOffset_lt {p : Params} {len n k : Nat} (hwb : 1 ≤ p.wb)
    (hn : n = len / p.wb * (3 + p.wb) + (3 + len % p.wb)) (hk : k < n) (h3 : 3 ≤ k % (3 + p.wb)) :
    slotOffset p k < len := by
  obtain ⟨hdiv, -⟩ := div_mod_of_offset hwb hn
  have hlen := Nat.div_add_mod' len p.wb
  have hpos := Nat.div_add_mod' k (3 + p.wb)
  have hmod : k % (3 + p.wb) < 3 + p.wb := Nat.mod_lt k (by omega)
  have hle : k / (3 + p.wb) ≤ len / p.wb := hdiv ▸ Nat.div_le_div_right hk.le
  rw [slotOffset]
  rcases hle.lt_or_eq with hlt | heq
  · have hrows : (k / (3 + p.wb) + 1) * p.wb ≤ len / p.wb * p.wb := Nat.mul_le_mul_right _ hlt
    rw [Nat.succ_mul] at hrows
    omega
  · rw [heq] at hpos ⊢
    omega

/-- Settles O37: every slot before the one of offset `len` is inside the buffer, and that one is not. -/
theorem shortBufferFaultsAtItsEnd : Obligations.ShortBufferFaultsAtItsEnd := by
  unfold Obligations.ShortBufferFaultsAtItsEnd
  intro s len n hp ho hf hr hlen hn hport htrans
  have hwb := Params.wb_pos hp
  obtain ⟨-, -, hstart⟩ := exec_starts ho hf
  obtain ⟨hdiv, hmod⟩ := div_mod_of_offset hwb hn
  have hnlt : n < s.par.height * (3 + s.par.wb) := by
    have hrow : len / s.par.wb < s.par.height := Nat.div_lt_of_lt_mul hlen
    rwa [← hdiv, div_lt_height] at hrow
  have hoff : slotOffset s.par n = len := by
    rw [slotOffset, hdiv, hmod, Nat.add_sub_cancel_left, Nat.add_comm, Nat.div_add_mod']
  obtain ⟨u, hu, d, h, rfl, -⟩ := afterSteps_frameAt (a := s.startDisplay len)
    hp hr hf rfl hport htrans rfl rfl hnlt (fun k hk h3 => slotOffset_lt hwb hn hk h3) n le_rfl
  have hstep := step_frameState_raises (a := s.startDisplay len)
    hp hnlt d h hr hf rfl (hmod.ge.trans' (Nat.le_add_right 3 _)) hoff.ge
  have hrow := frameState_row_toNat (a := s.startDisplay len) hp hnlt d h
  exact ⟨_, _, hstart len, afterSteps_succ_of_last hu hstep, rfl, rfl, hoff, rfl, hrow.trans hdiv, hmod, rfl, rfl, rfl⟩

end Sys2Proof.Machine
end
